-- ==== Sys2Proof/Config.lean ====
section
/-!
DEFINITION. The elaboration parameters of the block (R7 to R12 of 00_scope.md), as one configuration record, the
reference set of their defaults, and the one free value of the model: the environment's choice of cycle words.
-/
namespace Sys2Proof

/-- The compile-time constants of the block (R7, R8, R9, R11). A constant here is fixed when the block is elaborated
and cannot change at run time. -/
structure Params where
  /-- RAW_W, the width of a sample (R7). -/
  rawW : Nat
  /-- BETA_NUM of β = BETA_NUM / BETA_DEN (R8). -/
  betaNum : Nat
  /-- BETA_DEN of β = BETA_NUM / BETA_DEN (R8). -/
  betaDen : Nat
  /-- MIN_ANALOG_VALUE, the lower end of the clamping window (R9). -/
  minAnalog : Nat
  /-- MAX_ANALOG_VALUE, the upper end of the clamping window (R9). -/
  maxAnalog : Nat
  /-- BIT_WIDTH, the number of indicators (R11). -/
  bitWidth : Nat
  deriving DecidableEq, Repr

/-- OUTPUT_MAX = 2^BIT_WIDTH − 1 (R11). -/
def Params.outputMax (p : Params) : Int := 2 ^ p.bitWidth - 1

/-- The default of every parameter (R7, R8, R9, R11). -/
def Params.reference : Params where
  rawW := 12
  betaNum := 1
  betaDen := 100
  minAnalog := 600
  maxAnalog := 3800
  bitWidth := 8

/-- The constraints of R12. The bound 0 ≤ MIN_ANALOG_VALUE is the type's. -/
abbrev Params.Legal (p : Params) : Prop :=
  1 ≤ p.rawW ∧ 1 ≤ p.betaNum ∧ p.betaNum ≤ p.betaDen ∧ p.minAnalog < p.maxAnalog ∧
    p.maxAnalog ≤ 2 ^ p.rawW - 1 ∧ 1 ≤ p.bitWidth

/-- A parameter set that elaborates a block: one that satisfies R12. Every machine of this model is a machine of a
LegalParams, so an illegal set has none. -/
structure LegalParams where
  params : Params
  legal : params.Legal
  deriving DecidableEq

/-- The reference parameters elaborate a block: "The defaults satisfy every constraint" (R12). -/
def LegalParams.reference : LegalParams := ⟨Params.reference, by decide⟩

/-- Elaboration (R12): a parameter set that violates a constraint is refused, and there is no block for it. -/
def Params.elaborate (p : Params) : Option LegalParams :=
  if h : p.Legal then some ⟨p, h⟩ else none

/-- CAPACITY of the Channel, fixed at 1 and no parameter (R10). -/
def capacity : Nat := 1

/-- FREE VALUE (log entry 2, DESIGN CHOICE, safe). The cycle word of the given width (RAW_W + 3, R70) that the
environment presents in cycle n, where the state does not name it. The environment "chooses the input bundle of every
cycle freely" (R6), so it has no body and no proof can know a value of it. -/
opaque Config.environmentWord (width : Nat) : Nat → BitVec width

end Sys2Proof
end

