-- ==== Sys2Proof/Word.lean ====
section
/-!
DEFINITION. The word types of the block at the reference parameters: the widths of the ports and registers
(R7, R11, R20, R70).
-/
namespace Sys2Proof

/-- RAW_W bits: a RawSample, a FilteredSample, the slot and every sample-valued register (R7). -/
abbrev Sample := BitVec 12

/-- BIT_WIDTH bits: an ActivationPattern, active-low, bit i drives indicator i (R11, R25). -/
abbrev Pattern := BitVec 8

/-- The two-bit codes of s_stat and r_stat (R27, R28). -/
abbrev StatusCode := BitVec 2

/-- RAW_W + 3 bits: the input bundle rst, s_valid, r_req and s_raw of one cycle (R70). -/
abbrev CycleWord := BitVec 15

/-- Bit b of the word is cleared: `p[b] = 0` of R146. -/
def clearBit {w : Nat} (p : BitVec w) (b : Nat) : BitVec w := p &&& ~~~(BitVec.twoPow w b)

end Sys2Proof
end

