-- ==== Sys2Proof/Machine/State.lean ====
section
/-!
DEFINITION. The state of the machine: the eight registers of R20, whether a RESET has given them values (R232), and the
environment's inputs, which are the model's own fields. The reasons a step can stop, and the state after reset.
-/
namespace Sys2Proof.Machine

/-- The architectural state S = (prev, primed, slot, full, led_n, rx_q, s_stat, r_stat) of R20, and the model's own
fields initialised, inputs and cycle. -/
structure State where
  /-- The previous filtered value (R21). -/
  prev : Sample
  /-- False is the FilterState's "uninitialized" sentinel (R22). -/
  primed : Bool
  /-- The Channel's one storage element (R23). -/
  slot : Sample
  /-- The Channel's occupancy (R24). -/
  full : Bool
  /-- The ActivationPattern register, active-low (R25). -/
  ledN : Pattern
  /-- The sample received at the last pop (R26). -/
  rxQ : Sample
  /-- The status of the last cycle's send attempt (R27). -/
  sStat : StatusCode
  /-- The status of the last cycle's receive attempt (R28). -/
  rStat : StatusCode
  /-- A RESET has been applied since power-up, so that the registers hold values (R232; log entry 3, DEDUCED). -/
  initialised : Bool
  /-- MODEL'S OWN: the cycle words the environment has settled to present, earliest first (log entry 1). -/
  inputs : List CycleWord
  /-- MODEL'S OWN: the number of edges stepped, the index of the free value Config.environmentWord (log entry 2). -/
  cycle : Nat
  deriving DecidableEq, Repr

/-- Why the model stops with a fault. -/
inductive Fault where
  /-- An operation other than RESET in the power-up state, in which no register holds a value: "such a read is a fault
  of the model, not an arbitrary number" (R232). Raised by `clocked` of Ops.lean. Safe. No run from State.reset
  raises it. -/
  | readBeforeReset
  deriving DecidableEq, Repr

/-- Why the model has no meaning for an operation. -/
inductive Refusal where
  /-- The operation has no meaning yet. Raised by exec's arms only. Safe. No arm raises it. -/
  | notModelled (mnemonic : String)
  deriving DecidableEq, Repr

/-- The machine right after RESET: ResetState of R230, with no input settled and no cycle counted. -/
def State.reset : State where
  prev := 0#12
  primed := false
  slot := 0#12
  full := false
  ledN := 0xFF#8
  rxQ := 0#12
  sStat := 0#2
  rStat := 0#2
  initialised := true
  inputs := []
  cycle := 0

/-- The power-up state before the first RESET (R232). Its register fields are placeholders: no operation and no output
reads them while initialised is false. -/
def State.powerUp : State := { State.reset with initialised := false }

end Sys2Proof.Machine
end

