-- ==== Sys2Proof/Machine/Flags.lean ====
section
/-!
DEFINITION. The condition state of the block (R34): the codes of s_stat and r_stat (R27, R28, R205), the code each
attempt reports, and the two handshake levels that are read off full (R31).
-/
namespace Sys2Proof.Machine

/-- S_IDLE: no send attempt was made (R27). -/
def sIdle : StatusCode := 0#2
/-- S_ACCEPTED: the sample was pushed (R27). -/
def sAccepted : StatusCode := 1#2
/-- S_FULL: the sample was not pushed, ChannelFull (R27, R201). -/
def sFull : StatusCode := 2#2
/-- S_FAIL: reserved for ChannelSendFailure, no rule produces it (R27, R203). -/
def sFail : StatusCode := 3#2

/-- R_IDLE: no receive attempt was made (R28). -/
def rIdle : StatusCode := 0#2
/-- R_DELIVERED: a sample was popped and rendered (R28). -/
def rDelivered : StatusCode := 1#2
/-- R_EMPTY: nothing was popped, ChannelEmpty (R28, R202). -/
def rEmpty : StatusCode := 2#2
/-- R_FAIL: reserved for ChannelReceiveFailure, no rule produces it (R28, R203). -/
def rFail : StatusCode := 3#2

/-- What a send attempt reports, judged on the start-of-cycle full (R123). -/
def sendStatus (full : Bool) : StatusCode := if full then sFull else sAccepted

/-- What a receive attempt reports, judged on the start-of-cycle full (R123). -/
def receiveStatus (full : Bool) : StatusCode := if full then rDelivered else rEmpty

/-- The port s_ready (R31). -/
def State.sReady (s : State) : Bool := !s.full

/-- The port r_valid (R31). -/
def State.rValid (s : State) : Bool := s.full

end Sys2Proof.Machine
end

