-- ==== Sys2Proof/Machine/Datapath.lean ====
section
/-!
DEFINITION. The pure functions of the datapath (R14, R16), for every parameter set, on mathematical integers as the
spec has them (R13): rnd, FILT, CLAMP, SCALE, ENC and RENDER.
-/
namespace Sys2Proof.Machine

/-- rnd(N, D) of R14: N/D rounded to the nearest integer, ties away from zero, for D > 0. The division `/` of Int by a
positive number is the floor the rule writes. -/
def rnd (n d : Int) : Int :=
  if 0 ≤ n then (2 * n + d) / (2 * d) else -((-2 * n + d) / (2 * d))

/-- FILT of R101: the first sample passes through, every later one is the exact convex combination, rounded once
(R102). -/
def filt (p : Params) (primed : Bool) (prev raw : Int) : Int :=
  if primed then rnd (p.betaNum * raw + (p.betaDen - p.betaNum) * prev) p.betaDen else raw

/-- CLAMP of R141: both bounds are enforced (90_conflicts.md C3). -/
def clamp (p : Params) (v : Int) : Int :=
  if v < p.minAnalog then p.minAnalog else if v > p.maxAnalog then p.maxAnalog else v

/-- SCALE of R143: exact rational division, then one rounding. -/
def scale (p : Params) (c : Int) : Int :=
  rnd ((c - p.minAnalog) * p.outputMax) (p.maxAnalog - p.minAnalog)

/-- The loop of ENC (R146) over the bits b − 1 down to 0, from remaining magnitude r and pattern pat. Answers the pattern
and the residue. -/
def encLoop {w : Nat} : Nat → Nat → BitVec w → BitVec w × Nat
  | 0, r, pat => (pat, r)
  | b + 1, r, pat =>
    if 2 ^ b ≤ r then encLoop b (r - 2 ^ b) (clearBit pat b) else encLoop b r pat

/-- ENC of R146 for BIT_WIDTH = w: the greedy binary decomposition from the all-ones pattern. -/
def enc (w s : Nat) : BitVec w := (encLoop w s (BitVec.allOnes w)).1

/-- The magnitude that the loop of ENC leaves over (R146, R147). -/
def encResidue (w s : Nat) : Nat := (encLoop w s (BitVec.allOnes w)).2

/-- RENDER = ENC ∘ SCALE ∘ CLAMP of R16. SCALE of a clamped value is never negative (R144), so toNat loses nothing. -/
def render (p : Params) (v : Int) : BitVec p.bitWidth := enc p.bitWidth (scale p (clamp p v)).toNat

end Sys2Proof.Machine
end

