-- ==== Sys2Proof/Machine/Operands.lean ====
section
/-!
DEFINITION. The operands of the operations: how a register's bits are read as a number and how a number is stored in a
register (R13, R71), and the datapath functions at the reference parameters on those registers.
-/
namespace Sys2Proof.Machine

/-- Every multi-bit port and register is an unsigned binary number (R13, R51, R71: "no scaling or sign extension"). -/
def valueOf (x : Sample) : Int := x.toNat

/-- A number stored in RAW_W bits. FILT's results always fit (R104). -/
def storeSample (y : Int) : Sample := BitVec.ofInt 12 y

/-- FILT on the Sampler's operands: the start-of-cycle primed and prev, and the raw field (R101, R106). -/
def filteredSample (primed : Bool) (prev raw : Sample) : Sample :=
  storeSample (filt Params.reference primed (valueOf prev) (valueOf raw))

/-- RENDER on a popped sample (R150). -/
def renderedPattern (v : Sample) : Pattern := render Params.reference (valueOf v)

end Sys2Proof.Machine
end

