-- ==== Sys2Proof/Machine/Ops.lean ====
section
/-!
DEFINITION. The operations the meanings share: the Channel's primitives and its handshake (R121 to R123), the Sampler
step (R106), the output step of a pop (R150), and the clock edge. Each stage reads the start-of-cycle state `s` and
writes into the state `t` that forms at the edge (R15).
-/
namespace Sys2Proof.Machine

/-- SlotWrite(v), the push primitive (R121). -/
def slotWrite (v : Sample) (t : State) : State := { t with slot := v, full := true }

/-- SlotRead(), the pop primitive (R122): it returns the start-of-cycle slot, which is not cleared (R23). -/
def slotRead (s t : State) : Sample × State := (s.slot, { t with full := false, rxQ := s.slot })

/-- RenderOut(v), the output step of a pop (R150). -/
def renderOut (v : Sample) (t : State) : State := { t with ledN := renderedPattern v }

/-- Offer(y): push when the start-of-cycle full = 0, else S_FULL with slot and full untouched (R123). -/
def offer (s : State) (y : Sample) (t : State) : State :=
  if s.full then { t with sStat := sendStatus true }
  else slotWrite y { t with sStat := sendStatus false }

/-- The Sampler step of PUSH and PUSHPOP (R106): the FilterState takes the rounded value whether or not the Channel
accepts it. -/
def samplerStep (s : State) (raw : Sample) (t : State) : State :=
  offer s (filteredSample s.primed s.prev raw)
    { t with prev := filteredSample s.primed s.prev raw, primed := true }

/-- Receive(): pop and render when the start-of-cycle full = 1, else R_EMPTY (R123). -/
def receive (s t : State) : State :=
  if s.full then
    match slotRead s t with
    | (v, t') => renderOut v { t' with rStat := receiveStatus true }
  else { t with rStat := receiveStatus false }

/-- A cycle with s_valid = 0 (R123). -/
def noSend (t : State) : State := { t with sStat := sIdle }

/-- A cycle with r_req = 0 (R123). -/
def noReceive (t : State) : State := { t with rStat := rIdle }

/-- ResetState (R230), which keeps the environment's inputs: they are no register of the block. -/
def resetRegisters (s : State) : State := { State.reset with inputs := s.inputs, cycle := s.cycle }

/-- A clock edge of an operation that reads or keeps a register: it needs registers that hold values, so before the
first RESET it is a fault of the model (R232). -/
def clocked (s : State) (edge : State → State) : Host.Outcome State Fault Refusal :=
  if s.initialised then .next (edge s) else .fault .readBeforeReset

end Sys2Proof.Machine
end

