-- ==== Sys2Proof/Machine/CycleOps.lean ====
section
/-!
DEFINITION. The meanings of NOP, PUSH, POP and PUSHPOP (43_cycle_operations.md, R171 to R174).
-/
namespace Sys2Proof.Machine

/-- NOP (R171): both statuses become IDLE, every other register keeps its value. -/
def execNop (s : State) : Host.Outcome State Fault Refusal :=
  clocked s fun s => noReceive (noSend s)

/-- PUSH raw (R172): one Sampler iteration and no receive attempt. -/
def execPush (raw : Sample) (s : State) : Host.Outcome State Fault Refusal :=
  clocked s fun s => noReceive (samplerStep s raw s)

/-- POP (R173): one receive attempt and no Sampler iteration. -/
def execPop (s : State) : Host.Outcome State Fault Refusal :=
  clocked s fun s => receive s (noSend s)

/-- PUSHPOP raw (R174): both stages act, and both read the start-of-cycle state, so neither sees the other's write
(R124). -/
def execPushpop (raw : Sample) (s : State) : Host.Outcome State Fault Refusal :=
  clocked s fun s => receive s (samplerStep s raw s)

end Sys2Proof.Machine
end

