-- ==== Sys2Proof/Machine/ResetOp.lean ====
section
/-!
DEFINITION. The meaning of RESET (70_reset_and_hazards.md, R230, R231).
-/
namespace Sys2Proof.Machine

/-- RESET (R230): from any state, the power-up state among them (R232), every register takes its reset value. -/
def execReset (s : State) : Host.Outcome State Fault Refusal := .next (resetRegisters s)

end Sys2Proof.Machine
end

