-- ==== Sys2Proof/Syntax.lean ====
section
/-!
DEFINITION. The operations of the block, one constructor per row of spec/opcode_table.json (R2, R72), and the lines of
the assembler syntax with its pseudo-operations (R75, R76).
-/
namespace Sys2Proof

/-- One operation: one rising clock edge with its input bundle (R2). The raw field is an operand of PUSH and PUSHPOP
only; in every other word it is ignored (R71), so the other constructors carry none. -/
inductive Instr where
  /-- NOP (R171): no Sampler iteration and no receive attempt. -/
  | nop
  /-- PUSH raw (R172): one Sampler iteration. -/
  | push (raw : Sample)
  /-- POP (R173): one receive attempt. -/
  | pop
  /-- PUSHPOP raw (R174): both in one cycle. -/
  | pushpop (raw : Sample)
  /-- RESET (R230). -/
  | reset
  deriving DecidableEq, Repr

/-- One line of a program as a programmer writes it (R75), or a pseudo-operation (R76). An operand is any natural
number here: the range check is the assembler's (WellFormed.lean). -/
inductive AsmLine where
  | nop
  | push (raw : Nat)
  | pop
  | pushpop (raw : Nat)
  | reset
  /-- `IDLE n`: n consecutive NOP lines. -/
  | idle (n : Nat)
  /-- `SEND raw`: PUSH raw. -/
  | send (raw : Nat)
  /-- `RECV`: the wait loop of R76, which has no fixed expansion. -/
  | recv
  /-- `RESET n`: n consecutive RESET lines. -/
  | resetTimes (n : Nat)
  deriving DecidableEq, Repr

end Sys2Proof
end

