-- ==== Sys2Proof/Machine/Dispatch.lean ====
section
/-!
DEFINITION. One arm per operation (R72).
-/
namespace Sys2Proof.Machine

def exec (i : Instr) (s : State) : Host.Outcome State Fault Refusal :=
  match i with
  | .nop => Sys2Proof.Machine.execNop s
  | .push raw => Sys2Proof.Machine.execPush raw s
  | .pop => Sys2Proof.Machine.execPop s
  | .pushpop raw => Sys2Proof.Machine.execPushpop raw s
  | .reset => Sys2Proof.Machine.execReset s

end Sys2Proof.Machine
end

