-- ==== Sys2Proof/WellFormed.lean ====
section
/-!
DEFINITION. Which operations and which source lines are well formed (R71, R75, R76). The constraints on a parameter
set (R12) are Params.Legal of Config.lean.
-/
namespace Sys2Proof

/-- A number is a raw operand when it lies in [0, 2^RAW_W − 1] (R75). -/
def rawInRange (p : Params) (raw : Nat) : Bool := raw ≤ 2 ^ p.rawW - 1

/-- An operation is well formed when its operand is a raw operand (R71). The operand's type has RAW_W bits, so every
operation is. -/
def Instr.wellFormed : Instr → Bool
  | .nop => true
  | .push raw => rawInRange Params.reference raw.toNat
  | .pop => true
  | .pushpop raw => rawInRange Params.reference raw.toNat
  | .reset => true

/-- A source line the assembler takes, at any parameters: "An assembler refuses an operand outside that range; it does not truncate it"
(R75), and the count of `RESET n` is at least 1 (R76). -/
def AsmLine.wellFormedAt (p : Params) : AsmLine → Bool
  | .nop => true
  | .push raw => rawInRange p raw
  | .pop => true
  | .pushpop raw => rawInRange p raw
  | .reset => true
  | .idle _ => true
  | .send raw => rawInRange p raw
  | .recv => true
  | .resetTimes n => 1 ≤ n

/-- A source line the assembler takes at the reference parameters. -/
def AsmLine.wellFormed (l : AsmLine) : Bool := l.wellFormedAt Params.reference

end Sys2Proof
end

