-- ==== Sys2Proof/Decode.lean ====
section
/-!
DEFINITION. The cycle word (R70 to R74): its fields, the rows of spec/opcode_table.json, the decoder, which is total on
the 15-bit words (R73), and the encoder, which writes the canonical word (R75).
-/
namespace Sys2Proof

/-- Field R, the port rst: bit 14 (R70). -/
def fieldR (w : CycleWord) : Bool := w.getLsbD 14

/-- Field V, the port s_valid: bit 13 (R70). -/
def fieldV (w : CycleWord) : Bool := w.getLsbD 13

/-- Field Q, the port r_req: bit 12 (R70). -/
def fieldQ (w : CycleWord) : Bool := w.getLsbD 12

/-- Field raw, the port s_raw: bits 11 to 0, unsigned (R70, R71). -/
def fieldRaw (w : CycleWord) : Sample := w.extractLsb' 0 12

/-- The opcode map of R72: R = 1 selects RESET whatever the other bits hold (R231). -/
def decode (w : CycleWord) : Instr :=
  if fieldR w then .reset
  else
    match fieldV w, fieldQ w with
    | false, false => .nop
    | true, false => .push (fieldRaw w)
    | false, true => .pop
    | true, true => .pushpop (fieldRaw w)

/-- The canonical word of an operation: zeros in the bits that the operation ignores (R75). -/
def encode : Instr → CycleWord
  | .nop => 0x0000#15
  | .push raw => 0x2000#15 ||| raw.setWidth 15
  | .pop => 0x1000#15
  | .pushpop raw => 0x3000#15 ||| raw.setWidth 15
  | .reset => 0x4000#15

/-- One row of the opcode table: a word belongs to it when its masked bits are the match value (R72). -/
structure OpcodeRow where
  mnemonic : String
  mask : CycleWord
  matchValue : CycleWord
  deriving DecidableEq, Repr

/-- The word is one of the row's words. -/
def OpcodeRow.covers (row : OpcodeRow) (w : CycleWord) : Bool := w &&& row.mask == row.matchValue

/-- The match and mask values of R72 at the default width, row by row as in spec/opcode_table.json. -/
def opcodeTable : List OpcodeRow :=
  [⟨"NOP", 0x7000#15, 0x0000#15⟩,
   ⟨"PUSH", 0x7000#15, 0x2000#15⟩,
   ⟨"POP", 0x7000#15, 0x1000#15⟩,
   ⟨"PUSHPOP", 0x7000#15, 0x3000#15⟩,
   ⟨"RESET", 0x4000#15, 0x4000#15⟩]

/-- The operation's mnemonic (R75). -/
def Instr.mnemonic : Instr → String
  | .nop => "NOP"
  | .push _ => "PUSH"
  | .pop => "POP"
  | .pushpop _ => "PUSHPOP"
  | .reset => "RESET"

/-- Why a number is no cycle word. No 15-bit word is rejected (R73). -/
inductive DecodeError where
  /-- The number has a bit above bit RAW_W + 2: the block has no port for it (R70). Raised by decodeNumber; safe. -/
  | widerThanCycleWord
  deriving DecidableEq, Repr

/-- A number as a cycle word: all cycle words have the same length (R74). -/
def cycleWordOf (v : Nat) : Except DecodeError CycleWord :=
  if v < 2 ^ 15 then .ok (BitVec.ofNat 15 v) else .error .widerThanCycleWord

/-- The decoder on any number. -/
def decodeNumber (v : Nat) : Except DecodeError Instr :=
  match cycleWordOf v with
  | .ok w => .ok (decode w)
  | .error e => .error e

/-- The number whose low nbits bits are those of w and whose other bits are 0. -/
def lowBits (nbits w : Nat) : Nat := w % 2 ^ nbits

/-- The instruction that the decoder reads from the table word w of nbits bits, none where it refuses. The cycle word is
sampled at the ports as one binary number (R51, R70), so no byte order enters. -/
def decodeTableWord (nbits w : Nat) : Option Instr :=
  match decodeNumber (lowBits nbits w) with
  | .ok i => some i
  | .error _ => none

end Sys2Proof
end

