-- ==== Sys2Proof/Machine/Environment.lean ====
section
/-!
DEFINITION. The environment's side of a cycle: which cycle word is at the ports, and what is left to present after the
edge (R6, R30, R219; log entries 1 and 2).
-/
namespace Sys2Proof.Machine

/-- The cycle word at the ports in this cycle: the first settled one, else the environment's free choice. -/
def State.currentWord (s : State) : CycleWord :=
  match s.inputs with
  | w :: _ => w
  | [] => Config.environmentWord 15 s.cycle

/-- The environment after the edge: its word is consumed and the next cycle begins. No register changes. -/
def State.nextCycle (s : State) : State := { s with inputs := s.inputs.tail, cycle := s.cycle + 1 }

/-- The state in which w is the word of the very next cycle; later settled words stay. -/
def State.presenting (s : State) (w : CycleWord) : State := { s with inputs := w :: s.inputs.tail }

/-- The table word w of nbits bits at the ports in the very next cycle. A number that is no cycle word (R70) cannot be
put on the ports, and changes nothing. -/
def State.presentingTableWord (s : State) (nbits w : Nat) : State :=
  match cycleWordOf (lowBits nbits w) with
  | .ok word => s.presenting word
  | .error _ => s

end Sys2Proof.Machine
end

