-- ==== Sys2Proof/Machine/Step.lean ====
section
/-!
DEFINITION. One step of the machine: one rising edge (R2), the operation that the cycle word at the ports selects.
-/
namespace Sys2Proof.Machine

/-- One cycle: the word at the ports is decoded and its operation acts on the start-of-cycle registers (R2, R170). -/
def step (s : State) : Host.Outcome State Fault Refusal := exec (decode s.currentWord) s.nextCycle

/-- The state whose next step runs the table word w of nbits bits: the environment presents it in the next cycle. -/
def State.withFetchWord (s : State) (nbits w : Nat) : State := s.presentingTableWord nbits w

end Sys2Proof.Machine
end

