-- ==== Sys2Proof/Machine/Assembler.lean ====
section
/-!
DEFINITION. The assembler and the disassembler of R75 and R76. A source line is a list of characters. What R75 leaves
open (letter case, leading zeros and signs of numerals, blanks, lines without an operation, the numeral of a count) is
log entry 6, DESIGN CHOICE. The text of a line, its parts and what it stands for do not depend on the parameters; the words do.
-/
namespace Sys2Proof.Machine

/-- A blank between the parts of a line. -/
def isBlank (c : Char) : Bool := c == ' ' || c == '\t'

/-- The parts of a line, its comment left out: "A ; starts a comment that runs to the end of the line" (R75). -/
def lineParts (cs : List Char) : List (List Char) :=
  ((cs.takeWhile (fun c => c != ';')).splitOnP isBlank).filter (fun part => !part.isEmpty)

/-- The value of a digit, letters of either case counting from 10. -/
def digitValue (c : Char) : Option Nat :=
  let n := c.toNat
  if 48 ≤ n ∧ n ≤ 57 then some (n - 48)
  else if 97 ≤ n ∧ n ≤ 102 then some (n - 87)
  else if 65 ≤ n ∧ n ≤ 70 then some (n - 55)
  else none

/-- The number that the digits write in the base, after the value acc of the digits before them. -/
def digitsValue (base : Nat) : List Char → Nat → Option Nat
  | [], acc => some acc
  | c :: cs, acc =>
    match digitValue c with
    | some d => if d < base then digitsValue base cs (acc * base + d) else none
    | none => none

/-- "A decimal integer, or a hexadecimal integer written with a `0x` prefix" (R75). R75 does not say whether a numeral may
have leading zeros or a sign: any number of leading zeros is taken in both forms, a sign is refused, and so are `+5` and
`-0` (log entry 6, DESIGN CHOICE). -/
def parseNumber : List Char → Option Nat
  | [] => none
  | '0' :: 'x' :: [] => none
  | '0' :: 'x' :: cs => digitsValue 16 cs 0
  | cs => digitsValue 10 cs 0

/-- One line of a program (R75, R76), none where it is no line of the syntax. R75 gives the numeral forms of `<raw>`
only; the count `<n>` of IDLE and RESET is read in the same two forms (log entry 6, DESIGN CHOICE). -/
def parseLine (cs : List Char) : Option AsmLine :=
  match lineParts cs with
  | [m] =>
    if m = "NOP".toList then some .nop
    else if m = "POP".toList then some .pop
    else if m = "RESET".toList then some .reset
    else if m = "RECV".toList then some .recv
    else none
  | [m, a] =>
    if m = "PUSH".toList then (parseNumber a).map .push
    else if m = "PUSHPOP".toList then (parseNumber a).map .pushpop
    else if m = "IDLE".toList then (parseNumber a).map .idle
    else if m = "SEND".toList then (parseNumber a).map .send
    else if m = "RESET".toList then (parseNumber a).map .resetTimes
    else none
  | _ => none

/-- An operation of the source text, its operand any number: what a line stands for before its words are made. -/
inductive SourceOp where
  | nop
  | push (raw : Nat)
  | pop
  | pushpop (raw : Nat)
  | reset
  deriving DecidableEq, Repr

/-- What a line stands for (R75, R76). RECV has no fixed expansion: it is a wait loop that the environment
runs, `recv` of Receive.lean. -/
def expandLine : AsmLine → Option (List SourceOp)
  | .nop => some [.nop]
  | .push raw => some [.push raw]
  | .pop => some [.pop]
  | .pushpop raw => some [.pushpop raw]
  | .reset => some [.reset]
  | .idle n => some (List.replicate n .nop)
  | .send raw => some [.push raw]
  | .recv => none
  | .resetTimes n => some (List.replicate n .reset)

/-- The words of one line, where `word` makes the word of an operation: a line that is ill formed at the parameters is
refused and no operand is truncated (R75). -/
def assembleLineWith {ω : Type} (p : Params) (word : SourceOp → ω) (l : AsmLine) : Option (List ω) :=
  if l.wellFormedAt p then (expandLine l).map (List.map word) else none

/-- The words of a program, its lines in order, one word a cycle (R75), where `words` assembles one line. -/
def assembleWith {ω : Type} (words : AsmLine → Option (List ω)) : List (List Char) → Option (List ω)
  | [] => some []
  | line :: rest =>
    match parseLine line with
    | none => none
    | some l =>
      match words l, assembleWith words rest with
      | some ws, some more => some (ws ++ more)
      | _, _ => none

/-- An operation as a line of the syntax, its operand in decimal (R75). -/
def SourceOp.print : SourceOp → List Char
  | .nop => "NOP".toList
  | .push raw => "PUSH ".toList ++ Nat.toDigits 10 raw
  | .pop => "POP".toList
  | .pushpop raw => "PUSHPOP ".toList ++ Nat.toDigits 10 raw
  | .reset => "RESET".toList

/-- The operation that a source operation names, its operand in range (R75). -/
def SourceOp.toInstr : SourceOp → Instr
  | .nop => .nop
  | .push raw => .push (BitVec.ofNat 12 raw)
  | .pop => .pop
  | .pushpop raw => .pushpop (BitVec.ofNat 12 raw)
  | .reset => .reset

/-- The words of one line at the reference parameters. -/
def assembleLine : AsmLine → Option (List CycleWord) :=
  assembleLineWith Params.reference fun op => encode op.toInstr

/-- The words of a program at the reference parameters. -/
def assemble : List (List Char) → Option (List CycleWord) := assembleWith assembleLine

/-- The operation as the source text has it. -/
def sourceOp : Instr → SourceOp
  | .nop => .nop
  | .push raw => .push raw.toNat
  | .pop => .pop
  | .pushpop raw => .pushpop raw.toNat
  | .reset => .reset

/-- The disassembler: "every word with R = 1 as RESET, and every word with R = 0 and V = 0 without an operand, whatever
its ignored bits hold" (R75). -/
def disassemble (w : CycleWord) : List Char := (sourceOp (decode w)).print

end Sys2Proof.Machine
end

