-- ==== Sys2Proof/Machine/Block.lean ====
section
/-!
DEFINITION. The registers and the step function of the block of any legal parameter set (R5, R7 to R12): R170 as the
spec writes it, one function on mathematical integers (R13), and the reset state (R230). Elaborated.lean makes the whole
machine of it.
-/
namespace Sys2Proof.Machine

/-- The register tuple of R20 with unbounded numbers; that each fits its width is a property of the steps (R13, R38). -/
structure Block where
  prev : Int
  primed : Bool
  slot : Int
  full : Bool
  ledN : Nat
  rxQ : Int
  sStat : Nat
  rStat : Nat
  deriving DecidableEq, Repr

/-- The input bundle of one cycle (R30). -/
structure Bundle where
  rst : Bool
  sValid : Bool
  rReq : Bool
  sRaw : Int
  deriving DecidableEq, Repr

/-- The general word format of R70: raw in bits [RAW_W−1:0], then Q, V and R. -/
def Bundle.ofWord (e : LegalParams) (w : Nat) : Bundle where
  rst := w.testBit (e.params.rawW + 2)
  sValid := w.testBit (e.params.rawW + 1)
  rReq := w.testBit e.params.rawW
  sRaw := ((w % 2 ^ e.params.rawW : Nat) : Int)

/-- ResetState of R230 for any legal parameters. -/
def Block.reset (e : LegalParams) : Block where
  prev := 0
  primed := false
  slot := 0
  full := false
  ledN := 2 ^ e.params.bitWidth - 1
  rxQ := 0
  sStat := 0
  rStat := 0

/-- Step(S, w) of R170 for any legal parameters: every read sees b, the start-of-cycle state. -/
def Block.step (e : LegalParams) (w : Bundle) (b : Block) : Block :=
  if w.rst then Block.reset e
  else
    { prev := if w.sValid then filt e.params b.primed b.prev w.sRaw else b.prev
      primed := if w.sValid then true else b.primed
      slot := if w.sValid && !b.full then filt e.params b.primed b.prev w.sRaw else b.slot
      sStat := if w.sValid then (if b.full then 2 else 1) else 0
      rxQ := if w.rReq && b.full then b.slot else b.rxQ
      ledN := if w.rReq && b.full then (render e.params b.slot).toNat else b.ledN
      rStat := if w.rReq then (if b.full then 1 else 2) else 0
      full := if w.sValid && !b.full then true else if w.rReq && b.full then false else b.full }

/-- Every register fits the width R20 gives it. -/
def Block.Fits (e : LegalParams) (b : Block) : Prop :=
  0 ≤ b.prev ∧ b.prev ≤ 2 ^ e.params.rawW - 1 ∧ 0 ≤ b.slot ∧ b.slot ≤ 2 ^ e.params.rawW - 1 ∧
    0 ≤ b.rxQ ∧ b.rxQ ≤ 2 ^ e.params.rawW - 1 ∧ b.ledN ≤ 2 ^ e.params.bitWidth - 1 ∧
    b.sStat < 3 ∧ b.rStat < 3

/-- The input bundle's sample fits RAW_W bits (R30). -/
def Bundle.Fits (e : LegalParams) (w : Bundle) : Prop := 0 ≤ w.sRaw ∧ w.sRaw ≤ 2 ^ e.params.rawW - 1

/-- The registers of the machine as the tuple of numbers that R170 writes. -/
def State.toBlock (s : State) : Block where
  prev := (s.prev.toNat : Int)
  primed := s.primed
  slot := (s.slot.toNat : Int)
  full := s.full
  ledN := s.ledN.toNat
  rxQ := (s.rxQ.toNat : Int)
  sStat := s.sStat.toNat
  rStat := s.rStat.toNat

end Sys2Proof.Machine
end

