-- ==== Sys2Proof/Machine/Outputs.lean ====
section
/-!
DEFINITION. The output ports (R31): a function of the state alone. The indicators (R25, R51).
-/
namespace Sys2Proof.Machine

/-- The output ports of R31. -/
structure Outputs where
  sReady : Bool
  sStat : StatusCode
  rValid : Bool
  rStat : StatusCode
  rxQ : Sample
  ledN : Pattern
  filtQ : Sample
  filtPrimed : Bool
  deriving DecidableEq, Repr

/-- The values at the output ports. Before the first RESET no output has a value (R232). -/
def State.outputs (s : State) : Option Outputs :=
  if s.initialised then
    some { sReady := s.sReady, sStat := s.sStat, rValid := s.rValid, rStat := s.rStat, rxQ := s.rxQ,
           ledN := s.ledN, filtQ := s.prev, filtPrimed := s.primed }
  else none

/-- Indicator i is lit when bit i of the pattern is cleared (R25). -/
def lit {w : Nat} (p : BitVec w) (i : Nat) : Bool := decide (i < w) && !p.getLsbD i

/-- How many indicators a pattern lights (R147, R151). -/
def litCount {w : Nat} (p : BitVec w) : Nat := (List.range w).countP (lit p)

/-- How many 1 bits a number has among its low w bits (R147). -/
def oneBits (w s : Nat) : Nat := (List.range w).countP s.testBit

end Sys2Proof.Machine
end

