-- ==== Sys2Proof/Machine/Elaborated.lean ====
section
/-!
DEFINITION. The whole machine of ANY legal parameter set, so that the block "can be re-instantiated" (R5): its word
format with decoder and encoder (R70 to R74), its registers at their widths (R20), reset and power-up (R230, R232), the
five operations, the step under the environment's words, the output ports (R31) and the assembler (R75, R76). A set that
violates R12 has no LegalParams and so no machine here. The machine of Step.lean is this one at LegalParams.reference.
-/
namespace Sys2Proof.Machine.Elaborated

/-- RAW_W bits (R7). -/
abbrev SampleOf (e : LegalParams) := BitVec e.params.rawW

/-- BIT_WIDTH bits (R11). -/
abbrev PatternOf (e : LegalParams) := BitVec e.params.bitWidth

/-- RAW_W + 3 bits (R70). -/
abbrev WordOf (e : LegalParams) := BitVec (e.params.rawW + 3)

/-! ## Operations and their words -/

/-- The five operations (R2, R72). -/
inductive Operation (e : LegalParams) where
  | nop
  | push (raw : SampleOf e)
  | pop
  | pushpop (raw : SampleOf e)
  | reset
  deriving DecidableEq, Repr

/-- The opcode map of R72 on the general bit positions of R70. -/
def decode (e : LegalParams) (w : WordOf e) : Operation e :=
  if w.getLsbD (e.params.rawW + 2) then .reset
  else
    match w.getLsbD (e.params.rawW + 1), w.getLsbD e.params.rawW with
    | false, false => .nop
    | true, false => .push (w.extractLsb' 0 e.params.rawW)
    | false, true => .pop
    | true, true => .pushpop (w.extractLsb' 0 e.params.rawW)

/-- The word with control field ctl = {R, V, Q} above the raw field (R70). -/
def wordOf (e : LegalParams) (ctl raw : Nat) : WordOf e :=
  BitVec.ofNat (e.params.rawW + 3) (ctl * 2 ^ e.params.rawW + raw)

/-- The canonical word of an operation: zeros in the bits that it ignores (R75). -/
def encode (e : LegalParams) : Operation e → WordOf e
  | .nop => wordOf e 0 0
  | .push raw => wordOf e 2 raw.toNat
  | .pop => wordOf e 1 0
  | .pushpop raw => wordOf e 3 raw.toNat
  | .reset => wordOf e 4 0

/-- The input bundle of an operation (R30, R72). The sample of an operation that reads none is 0. -/
def Operation.bundle {e : LegalParams} : Operation e → Bundle
  | .nop => ⟨false, false, false, 0⟩
  | .push raw => ⟨false, true, false, raw.toNat⟩
  | .pop => ⟨false, false, true, 0⟩
  | .pushpop raw => ⟨false, true, true, raw.toNat⟩
  | .reset => ⟨true, false, false, 0⟩

/-! ## State -/

/-- The state tuple of R20, each register at its width. -/
structure Registers (e : LegalParams) where
  prev : SampleOf e
  primed : Bool
  slot : SampleOf e
  full : Bool
  ledN : PatternOf e
  rxQ : SampleOf e
  sStat : StatusCode
  rStat : StatusCode
  deriving DecidableEq, Repr

/-- The registers as the numbers that R170 computes with (R13). -/
def Registers.toBlock {e : LegalParams} (r : Registers e) : Block where
  prev := (r.prev.toNat : Int)
  primed := r.primed
  slot := (r.slot.toNat : Int)
  full := r.full
  ledN := r.ledN.toNat
  rxQ := (r.rxQ.toNat : Int)
  sStat := r.sStat.toNat
  rStat := r.rStat.toNat

/-- The numbers that R170 computes, stored in the registers. Every result fits its width (R13). -/
def Registers.store (e : LegalParams) (b : Block) : Registers e where
  prev := BitVec.ofInt e.params.rawW b.prev
  primed := b.primed
  slot := BitVec.ofInt e.params.rawW b.slot
  full := b.full
  ledN := BitVec.ofNat e.params.bitWidth b.ledN
  rxQ := BitVec.ofInt e.params.rawW b.rxQ
  sStat := BitVec.ofNat 2 b.sStat
  rStat := BitVec.ofNat 2 b.rStat

/-- The block and its environment. -/
structure BlockState (e : LegalParams) where
  /-- The registers, or none in the power-up state, in which every register "holds no defined value" (R232). -/
  registers : Option (Registers e)
  /-- MODEL'S OWN: the words the environment has settled to present, earliest first (log entry 1). -/
  inputs : List (WordOf e)
  /-- MODEL'S OWN: the index of the free value Config.environmentWord (log entry 2). -/
  cycle : Nat
  deriving DecidableEq, Repr

/-- The state right after RESET (R230). -/
def reset (e : LegalParams) : BlockState e := ⟨some (.store e (Block.reset e)), [], 0⟩

/-- The power-up state before the first RESET (R232). -/
def powerUp (e : LegalParams) : BlockState e := ⟨none, [], 0⟩

/-! ## Operations, step and runs -/

/-- One operation (R170): RESET from any state gives the reset registers (R230); every other operation needs registers
that hold values (R232). -/
def exec (e : LegalParams) (op : Operation e) (s : BlockState e) :
    Host.Outcome (BlockState e) Fault Refusal :=
  match op, s.registers with
  | .reset, _ => .next { s with registers := some (.store e (Block.reset e)) }
  | op, some r => .next { s with registers := some (.store e (Block.step e op.bundle r.toBlock)) }
  | _, none => .fault .readBeforeReset

/-- Step(S, w) of R170: one cycle with the word w at the ports. -/
def cycleStep (e : LegalParams) (w : WordOf e) (s : BlockState e) :
    Host.Outcome (BlockState e) Fault Refusal := exec e (decode e w) s

/-- The cycle word at the ports in this cycle (log entries 1 and 2). -/
def BlockState.currentWord {e : LegalParams} (s : BlockState e) : WordOf e :=
  match s.inputs with
  | w :: _ => w
  | [] => Config.environmentWord (e.params.rawW + 3) s.cycle

/-- The environment after the edge. -/
def BlockState.nextCycle {e : LegalParams} (s : BlockState e) : BlockState e :=
  { s with inputs := s.inputs.tail, cycle := s.cycle + 1 }

/-- One cycle under the environment's word (R2, R6). -/
def step (e : LegalParams) (s : BlockState e) : Host.Outcome (BlockState e) Fault Refusal :=
  cycleStep e s.currentWord s.nextCycle

/-- The machine of a legal parameter set, as the host reads machines. -/
def core (e : LegalParams) : Host.Core where
  State := BlockState e
  Fault := Fault
  Refusal := Refusal
  step := step e
  reset := reset e

/-! ## Output ports -/

/-- The output ports of R31, each at its width. -/
structure Ports (e : LegalParams) where
  sReady : Bool
  sStat : StatusCode
  rValid : Bool
  rStat : StatusCode
  rxQ : SampleOf e
  ledN : PatternOf e
  filtQ : SampleOf e
  filtPrimed : Bool
  deriving DecidableEq, Repr

/-- The values at the output ports, a function of the state alone (R31), none before the first RESET (R232). -/
def BlockState.outputs {e : LegalParams} (s : BlockState e) : Option (Ports e) :=
  s.registers.map fun r =>
    { sReady := !r.full, sStat := r.sStat, rValid := r.full, rStat := r.rStat, rxQ := r.rxQ,
      ledN := r.ledN, filtQ := r.prev, filtPrimed := r.primed }

/-! ## Source text -/

/-- The operation that a source operation names, its operand in range (R75). -/
def operationOf (e : LegalParams) : SourceOp → Operation e
  | .nop => .nop
  | .push raw => .push (BitVec.ofNat e.params.rawW raw)
  | .pop => .pop
  | .pushpop raw => .pushpop (BitVec.ofNat e.params.rawW raw)
  | .reset => .reset

/-- The operation as the source text has it. -/
def Operation.sourceOp {e : LegalParams} : Operation e → SourceOp
  | .nop => .nop
  | .push raw => .push raw.toNat
  | .pop => .pop
  | .pushpop raw => .pushpop raw.toNat
  | .reset => .reset

/-- The words of one line (R75, R76). -/
def assembleLine (e : LegalParams) : AsmLine → Option (List (WordOf e)) :=
  assembleLineWith e.params fun op => encode e (operationOf e op)

/-- The words of a program (R75). -/
def assemble (e : LegalParams) : List (List Char) → Option (List (WordOf e)) :=
  assembleWith (assembleLine e)

/-- The disassembler (R75). -/
def disassemble (e : LegalParams) (w : WordOf e) : List Char := (decode e w).sourceOp.print

/-! ## The machine of Step.lean as the instance at the reference parameters -/

/-- An operation of the reference machine. -/
def ofInstr : Instr → Operation .reference
  | .nop => .nop
  | .push raw => .push raw
  | .pop => .pop
  | .pushpop raw => .pushpop raw
  | .reset => .reset

/-- The state of the reference machine: its registers where a RESET has given them values, and its environment. -/
def ofState (s : State) : BlockState .reference where
  registers :=
    if s.initialised then
      some { prev := s.prev, primed := s.primed, slot := s.slot, full := s.full, ledN := s.ledN,
             rxQ := s.rxQ, sStat := s.sStat, rStat := s.rStat }
    else none
  inputs := s.inputs
  cycle := s.cycle

/-- The output ports of the reference machine. -/
def ofOutputs (o : Outputs) : Ports .reference where
  sReady := o.sReady
  sStat := o.sStat
  rValid := o.rValid
  rStat := o.rStat
  rxQ := o.rxQ
  ledN := o.ledN
  filtQ := o.filtQ
  filtPrimed := o.filtPrimed

/-- An outcome of the reference machine. -/
def ofOutcome : Host.Outcome State Fault Refusal → Host.Outcome (BlockState .reference) Fault Refusal
  | .next t => .next (ofState t)
  | .fault r => .fault r
  | .refused r => .refused r

end Sys2Proof.Machine.Elaborated
end

