-- ==== Sys2Proof/Machine/Run.lean ====
section
/-!
DEFINITION. Runs over a finite sequence of cycle words (R177), and what an observer collects along a run: the outputs,
the raw samples, the filtered samples, and the values pushed and popped (R57, R108).
-/
namespace Sys2Proof.Machine

/-- Step(S, w) of R170: one cycle with the word w at the ports. -/
def cycleStep (w : CycleWord) (s : State) : Host.Outcome State Fault Refusal := exec (decode w) s

/-- The words ws, one a cycle, from state s, stopping at the first fault. -/
def runWords : List CycleWord → State → Host.Outcome State Fault Refusal
  | [], s => .next s
  | w :: ws, s =>
    match cycleStep w s with
    | .next t => runWords ws t
    | .fault r => .fault r
    | .refused r => .refused r

/-- What f sees of each cycle of the run: its word and the state after its edge. -/
def collect {α : Type} (f : CycleWord → State → List α) : List CycleWord → State → List α
  | [], _ => []
  | w :: ws, s =>
    match cycleStep w s with
    | .next t => f w t ++ collect f ws t
    | .fault _ => []
    | .refused _ => []

/-- The cycle is a Sampler iteration: rst = 0 and s_valid = 1 (R100). -/
def isSend (w : CycleWord) : Bool := !fieldR w && fieldV w

/-- The cycle makes a receive attempt: rst = 0 and r_req = 1, with a send in the same cycle or without (R126). -/
def isReceive (w : CycleWord) : Bool := !fieldR w && fieldQ w

/-- The raw samples of the run's Sampler iterations, in order (R100). -/
def rawSamples (ws : List CycleWord) (s : State) : List Sample :=
  collect (fun w _ => if isSend w then [fieldRaw w] else []) ws s

/-- The FilteredSamples of the run, in order: the FilterState after each Sampler iteration (R106). -/
def filteredSamples (ws : List CycleWord) (s : State) : List Sample :=
  collect (fun w t => if isSend w then [t.prev] else []) ws s

/-- The values accepted by the run's pushes, in order (R57). -/
def acceptedSamples (ws : List CycleWord) (s : State) : List Sample :=
  collect (fun _ t => if t.sStat = sAccepted then [t.slot] else []) ws s

/-- The values delivered by the run's pops, in order (R57). -/
def deliveredSamples (ws : List CycleWord) (s : State) : List Sample :=
  collect (fun _ t => if t.rStat = rDelivered then [t.rxQ] else []) ws s

/-- The outputs after each edge of the run (R31). -/
def outputTrace (ws : List CycleWord) (s : State) : List (Option Outputs) :=
  collect (fun _ t => [t.outputs]) ws s

/-- The pending samples of the Channel, at most CAPACITY of them (R24, R120). -/
def State.pending (s : State) : List Sample := if s.full then [s.slot] else []

end Sys2Proof.Machine
end

