-- ==== Sys2Proof/Machine/Receive.lean ====
section
/-!
DEFINITION. The pseudo-operation RECV of R76: the wait loop that the environment runs (R126). Its length "depends on the
state and on other operations", so it is taken over the words that the environment presents from the start of the wait:
receive attempts, alone or with a send in the same cycle, and any other operations between them (log entry 5, DEDUCED).
-/
namespace Sys2Proof.Machine

/-- A wait that has ended. -/
structure Waited (ω σ : Type) where
  /-- The k of R76: the POP lines that the RECV stood for. -/
  lines : Nat
  /-- The state after the edge of the last of them. -/
  after : σ
  /-- The words that the environment has still to present. -/
  rest : List ω
  deriving DecidableEq, Repr

/-- The wait with one more POP line before it. -/
def Waited.addLine {ω σ : Type} (r : Waited ω σ) : Waited ω σ := { r with lines := r.lines + 1 }

/-- The wait loop over the words, by what a cycle does, which words are receive attempts, and when the Channel is full:
it ends at the first receive attempt that starts in a cycle with full = 1, and it has no timeout (R126). None where the
words do not bring it to its end. -/
def waitLoop {ω σ : Type} (cycle : ω → σ → Host.Outcome σ Fault Refusal) (receives : ω → Bool) (full : σ → Bool) :
    List ω → σ → Option (Waited ω σ)
  | [], _ => none
  | w :: ws, s =>
    match cycle w s with
    | .next t =>
      if receives w then
        if full s then some ⟨1, t, ws⟩ else (waitLoop cycle receives full ws t).map Waited.addLine
      else waitLoop cycle receives full ws t
    | .fault _ => none
    | .refused _ => none

/-- RECV from state s under the words ws (R76). -/
def recv : List CycleWord → State → Option (Waited CycleWord State) := waitLoop cycleStep isReceive State.full

/-- R76's own wording: RECV from state s under the words ws stands for k POP lines when the k-th receive attempt among the
words is the first that starts in a cycle with full = 1. -/
def recvTakes (k : Nat) (ws : List CycleWord) (s : State) : Prop :=
  ∃ (before : List CycleWord) (w : CycleWord) (rest : List CycleWord) (t u : State),
    ws = before ++ w :: rest ∧ k = before.countP isReceive + 1 ∧
    runWords before s = .next t ∧ isReceive w = true ∧ t.full = true ∧ cycleStep w t = .next u ∧
    ∀ (earlier : List CycleWord) (v : CycleWord) (later : List CycleWord),
      before = earlier ++ v :: later → isReceive v = true →
      ∃ x, runWords earlier s = .next x ∧ x.full = false

namespace Elaborated

/-- The word is a receive attempt: rst = 0 and r_req = 1 (R126). -/
def isReceive (e : LegalParams) (w : WordOf e) : Bool :=
  !w.getLsbD (e.params.rawW + 2) && w.getLsbD e.params.rawW

/-- The Channel's occupancy. Before the first RESET there is none to read (R232), and no receive attempt runs. -/
def BlockState.full {e : LegalParams} (s : BlockState e) : Bool := s.registers.any Registers.full

/-- RECV of the block of any legal parameter set (R76). -/
def recv (e : LegalParams) : List (WordOf e) → BlockState e → Option (Waited (WordOf e) (BlockState e)) :=
  waitLoop (cycleStep e) (isReceive e) BlockState.full

/-- A wait of the reference machine. -/
def ofWaited (r : Waited CycleWord State) : Waited (WordOf .reference) (BlockState .reference) :=
  ⟨r.lines, ofState r.after, r.rest⟩

end Elaborated

end Sys2Proof.Machine
end

