-- ==== Sys2Proof/Safety.lean ====
section
/-!
DEFINITION. What a sound state of the block is, in the terms the statements use (R38 and what the rules imply of every
state after a RESET).
-/
namespace Sys2Proof.Machine

/-- The invariant of the initialised machine: R38's reserved codes, and the relations between the registers that every
cycle keeps. -/
structure State.Sound (s : State) : Prop where
  /-- A RESET has been applied (R233). -/
  initialised : s.initialised = true
  /-- S_FAIL is never produced (R38, R203). -/
  send_code : s.sStat ≠ sFail
  /-- R_FAIL is never produced (R38, R203). -/
  receive_code : s.rStat ≠ rFail
  /-- A push in the last cycle has left the Channel full (R123). -/
  accepted_full : s.sStat = sAccepted → s.full = true
  /-- A pop in the last cycle has left the Channel empty (R123). -/
  delivered_empty : s.rStat = rDelivered → s.full = false
  /-- A pending sample is a FilteredSample, so a Sampler iteration has been made (R38, R106). -/
  full_primed : s.full = true → s.primed = true
  /-- The uninitialized FilterState still has its reset value (R21, R230). -/
  unprimed_prev : s.primed = false → s.prev = 0#12
  /-- The indicators show the sample received last, all off after reset (R150, R230). -/
  pattern_rendered : s.ledN = renderedPattern s.rxQ

/-- An initialized FilterState lies between the bounds (R108). -/
def State.FilterWithin (s : State) (lo hi : Nat) : Prop :=
  s.primed = true → lo ≤ s.prev.toNat ∧ s.prev.toNat ≤ hi

/-- What has been accepted is what has been delivered, in order, and then what is pending (R57). -/
def State.FifoBalanced (s : State) (accepted delivered : List Sample) : Prop :=
  accepted = delivered ++ s.pending

/-- What the Channel holds was filtered and accepted, and what was received last was accepted or is the reset value
(R38). -/
def State.HoldsSamplesOf (s : State) (filtered accepted : List Sample) : Prop :=
  (s.full = true → s.slot ∈ filtered ∧ s.slot ∈ accepted) ∧ (s.rxQ = 0#12 ∨ s.rxQ ∈ accepted)

/-- No word of the list is a RESET. -/
def NoReset (ws : List CycleWord) : Prop := ∀ w ∈ ws, fieldR w = false

end Sys2Proof.Machine
end

