-- ==== Sys2Proof/Certificates/Slice0/Obligations.lean ====
section
/-!
DEFINITION. The statements for the provers. Each docstring names the rule or the sections of spec/ it formalises.
-/

open Sys2Proof Sys2Proof.Machine

/-! ## The cycle word and the source syntax (30_encoding.md) -/

/-- R70, R71, R72: the decoder reads every operation back from its canonical word. -/
def Obligations.DecodeGivesBackEncodedOperation : Prop :=
  ∀ i : Instr, i.wellFormed = true → decode (encode i) = i

/-- R75: the canonical word of what a word selects is that word with its ignored bits cleared: all but bit 14 where
R = 1, the raw field where R = 0 and V = 0, and nothing where R = 0 and V = 1. -/
def Obligations.EncodeOfDecodedWordIsCanonical : Prop :=
  ∀ w : CycleWord, encode (decode w) =
    if w.getLsbD 14 then 0x4000#15 else if w.getLsbD 13 then w else w &&& 0x7000#15

/-- R72: the control field selects the operation, by the match and mask values of the rule's second table. -/
def Obligations.ControlFieldSelectsOperation : Prop :=
  ∀ w : CycleWord,
    (w &&& 0x7000#15 = 0x0000#15 ↔ decode w = .nop) ∧
    (w &&& 0x7000#15 = 0x2000#15 ↔ decode w = .push (w.extractLsb' 0 12)) ∧
    (w &&& 0x7000#15 = 0x1000#15 ↔ decode w = .pop) ∧
    (w &&& 0x7000#15 = 0x3000#15 ↔ decode w = .pushpop (w.extractLsb' 0 12)) ∧
    (w &&& 0x4000#15 = 0x4000#15 ↔ decode w = .reset)

/-- R73: the five rows of the opcode table partition the word space: exactly one row covers a word, and it is the row of
the operation that the word decodes to. -/
def Obligations.RowsPartitionTheWordSpace : Prop :=
  ∀ w : CycleWord, ∃ row ∈ opcodeTable,
    row.covers w = true ∧ row.mnemonic = (decode w).mnemonic ∧
      ∀ other ∈ opcodeTable, other.covers w = true → other = row

/-- R71: the raw field is the only operand, read unsigned with no scaling or sign extension, and only when V = 1 and
R = 0. Two other words that differ only in it select the same operation, with the same effect on every state. -/
def Obligations.RawFieldIsReadOnlyBySends : Prop :=
  (∀ w : CycleWord, w.getLsbD 14 = false → w.getLsbD 13 = true →
    ∃ raw : Sample, (decode w = .push raw ∨ decode w = .pushpop raw) ∧
      valueOf raw = ((w.toNat % 4096 : Nat) : Int)) ∧
  (∀ w v : CycleWord, w &&& 0x7000#15 = v &&& 0x7000#15 →
    (w.getLsbD 14 = true ∨ w.getLsbD 13 = false) →
    decode w = decode v ∧ ∀ s : State, cycleStep w s = cycleStep v s)

/-- Words of 95_test_vectors.md §2.7 and §3, one or more for each operation, decode to what the tables say. -/
def Obligations.WrittenOutWordsDecode : Prop :=
  decode 0x0ABC#15 = .nop ∧ decode 0x2800#15 = .push 2048#12 ∧ decode 0x23E8#15 = .push 1000#12 ∧
    decode 0x1000#15 = .pop ∧ decode 0x3800#15 = .pushpop 2048#12 ∧
    decode 0x31F4#15 = .pushpop 500#12 ∧ decode 0x4000#15 = .reset ∧ decode 0x7FFF#15 = .reset

/-- R75: the assembler takes an operand in [0, 4095] into the word's low bits, and refuses any other operand instead of
truncating it. The operand-free operations assemble to the words of R75's table. -/
def Obligations.AssemblerRefusesAndNeverTruncates : Prop :=
  (∀ raw : Nat, raw ≤ 4095 →
    (∃ w, assembleLine (.push raw) = some [w] ∧ w.toNat = 0x2000 + raw) ∧
    (∃ w, assembleLine (.pushpop raw) = some [w] ∧ w.toNat = 0x3000 + raw)) ∧
  (∀ raw : Nat, 4095 < raw →
    assembleLine (.push raw) = none ∧ assembleLine (.pushpop raw) = none) ∧
  assembleLine .nop = some [0x0000#15] ∧ assembleLine .pop = some [0x1000#15] ∧
  assembleLine .reset = some [0x4000#15]

/-- R76: IDLE n is n NOP words, SEND raw is PUSH raw, RESET n is n RESET words for n ≥ 1 and refused for n = 0. RECV has
no fixed expansion. Its wait loop stands for k POP lines exactly where the rule's words give k, from any state and under
any words of the environment. With no other operation k is 1 from a full Channel, and no number from an empty one. A send
in a cycle of the wait, or between two of them, makes the next POP the last. That a receive attempt counts as a POP line
when a send is made in its cycle, and that other operations may stand between, is the model's reading (log entry 5). -/
def Obligations.PseudoOperationsExpand : Prop :=
  (∀ n : Nat, assembleLine (.idle n) = some (List.replicate n 0x0000#15)) ∧
  (∀ raw : Nat, assembleLine (.send raw) = assembleLine (.push raw)) ∧
  (∀ n : Nat, 1 ≤ n → assembleLine (.resetTimes n) = some (List.replicate n 0x4000#15)) ∧
  assembleLine (.resetTimes 0) = none ∧
  assembleLine .recv = none ∧
  (∀ (k : Nat) (ws : List CycleWord) (s : State),
    recvTakes k ws s ↔ ∃ r, recv ws s = some r ∧ r.lines = k) ∧
  (∀ (n : Nat) (s : State), s.initialised = true →
    (s.full = true → ∃ r, recv (List.replicate (n + 1) (encode .pop)) s = some r ∧ r.lines = 1) ∧
    (s.full = false → recv (List.replicate n (encode .pop)) s = none)) ∧
  (∀ (n : Nat) (raw : Sample) (rest : List CycleWord) (s : State), s.initialised = true → s.full = false →
    (∃ r, recv (List.replicate n (encode .pop) ++ encode (.pushpop raw) :: encode .pop :: rest) s = some r ∧
      r.lines = n + 2 ∧ r.after.rxQ = filteredSample s.primed s.prev raw ∧ r.rest = rest) ∧
    (∃ r, recv (List.replicate n (encode .pop) ++ encode (.push raw) :: encode .pop :: rest) s = some r ∧
      r.lines = n + 1 ∧ r.after.rxQ = filteredSample s.primed s.prev raw ∧ r.rest = rest))

/-- R75: the disassembler's text of a word is a line of the syntax, and assembling it gives the canonical word of the
operation that the word selects. -/
def Obligations.DisassembledTextAssemblesBack : Prop :=
  ∀ w : CycleWord, assemble [disassemble w] = some [encode (decode w)]

/-- R75: a word with R = 1 prints as RESET, a word with R = 0 and V = 0 prints without an operand. -/
def Obligations.DisassemblerHidesIgnoredBits : Prop :=
  ∀ w : CycleWord,
    (w.getLsbD 14 = true → disassemble w = "RESET".toList) ∧
    (w.getLsbD 14 = false → w.getLsbD 13 = false →
      disassemble w = if w.getLsbD 12 then "POP".toList else "NOP".toList)

/-! ## The step and runs (R2, R170, R177) -/

/-- R2, R170: one step runs the operation that the cycle word at the ports decodes to, on the same registers. The word is
the first settled input, which the edge consumes, and else the environment's free choice for the cycle. -/
def Obligations.StepRunsTheDecodedOperation : Prop :=
  (∀ (s : State) (w : CycleWord) (ws : List CycleWord) (i : Instr), s.inputs = w :: ws →
    decode w = i → step s = exec i { s with inputs := ws, cycle := s.cycle + 1 }) ∧
  (∀ (s : State) (i : Instr), s.inputs = [] → decode (Config.environmentWord 15 s.cycle) = i →
    step s = exec i { s with cycle := s.cycle + 1 })

/-- R2, R70: a table word that the decoder reads as an operation is run by the very next step when the environment presents
it, and the inputs settled after the replaced one stay. -/
def Obligations.PresentedTableWordRunsNext : Prop :=
  ∀ (nbits w : Nat) (i : Instr) (s : State), decodeTableWord nbits w = some i →
    step (s.withFetchWord nbits w) = exec i { s with inputs := s.inputs.tail, cycle := s.cycle + 1 }

/-- R170, R177: the machine's own run over settled inputs is the run of those words, one a cycle. That the words of a run
stand in State.inputs, that a step consumes the first of them and that the cycle counter advances are the model's own
(log entries 1 and 2, DESIGN CHOICE), not the rules'. -/
def Obligations.CoreRunFollowsSettledInputs : Prop :=
  ∀ (ws : List CycleWord) (s t : State), runWords ws s = .next t →
    Host.Core.run Sys2Proof.core ws.length { s with inputs := ws } =
      .next { t with inputs := [], cycle := s.cycle + ws.length }

/-- R170, R200: no operation faults, traps, stalls or refuses. From reset, every sequence of words runs to its end, and
so does every number of steps whatever words the environment chooses. -/
def Obligations.RunsFromResetNeverStop : Prop :=
  (∀ ws : List CycleWord, ∃ t, runWords ws State.reset = .next t) ∧
  (∀ k : Nat, ∃ t : State, Host.Core.run Sys2Proof.core k State.reset = .next t)

/-- R170: the machine's cycle on the words and registers of the reference parameters is the rule's Step(S, w), for every
word and every state of the initialised block, and its outputs are those of R31 computed from the new state. That slot keeps its
contents after a pop is R23 and the rule's own text, against I13 of 93_implementation_defined.md (log entry 9). -/
def Obligations.CycleRefinesParametricStep : Prop :=
  ∀ (w : CycleWord) (s : State), s.initialised = true →
    ∃ t, cycleStep w s = .next t ∧
      t.toBlock = Block.step .reference (Bundle.ofWord .reference w.toNat) s.toBlock ∧
      t.outputs = some { sReady := !t.full, sStat := t.sStat, rValid := t.full, rStat := t.rStat,
                         rxQ := t.rxQ, ledN := t.ledN, filtQ := t.prev, filtPrimed := t.primed }

/-! ## The operations (R171 to R174, R230 to R232) -/

/-- R171: NOP. -/
def Obligations.NopIdlesBothStatusesOnly : Prop :=
  (∀ w : CycleWord, w &&& 0x7000#15 = 0x0000#15 → decode w = .nop) ∧
  ∀ s : State, s.initialised = true →
    exec .nop s = .next { s with sStat := 0#2, rStat := 0#2 }

/-- R172: PUSH, with FILT in the closed form of R103. -/
def Obligations.PushFiltersThenOffers : Prop :=
  (∀ w : CycleWord, w &&& 0x7000#15 = 0x2000#15 → decode w = .push (w.extractLsb' 0 12)) ∧
  ∀ (raw : Sample) (s : State), s.initialised = true →
    ∃ y : Sample,
      y.toNat = (if s.primed then (raw.toNat + 99 * s.prev.toNat + 50) / 100 else raw.toNat) ∧
      exec (.push raw) s = .next
        { s with prev := y, primed := true, slot := (if s.full then s.slot else y), full := true,
                 sStat := (if s.full then 2#2 else 1#2), rStat := 0#2 }

/-- R173: POP, with RENDER in the closed forms of R144 and R147. -/
def Obligations.PopDeliversOrReportsEmpty : Prop :=
  (∀ w : CycleWord, w &&& 0x7000#15 = 0x1000#15 → decode w = .pop) ∧
  ∀ s : State, s.initialised = true →
    (s.full = true → ∃ pattern : Pattern,
      pattern.toNat = 255 - ((max 600 (min 3800 s.slot.toNat) - 600) * 255 + 1600) / 3200 ∧
      exec .pop s = .next
        { s with rxQ := s.slot, ledN := pattern, full := false, rStat := 1#2, sStat := 0#2 }) ∧
    (s.full = false → exec .pop s = .next { s with rStat := 2#2, sStat := 0#2 })

/-- R174: PUSHPOP, both parts on the start-of-cycle full. -/
def Obligations.PushpopActsOnStartOfCycleFull : Prop :=
  (∀ w : CycleWord, w &&& 0x7000#15 = 0x3000#15 → decode w = .pushpop (w.extractLsb' 0 12)) ∧
  ∀ (raw : Sample) (s : State), s.initialised = true →
    ∃ y : Sample,
      y.toNat = (if s.primed then (raw.toNat + 99 * s.prev.toNat + 50) / 100 else raw.toNat) ∧
      (s.full = false → exec (.pushpop raw) s = .next
        { s with prev := y, primed := true, slot := y, full := true, sStat := 1#2, rStat := 2#2 }) ∧
      (s.full = true → ∃ pattern : Pattern,
        pattern.toNat = 255 - ((max 600 (min 3800 s.slot.toNat) - 600) * 255 + 1600) / 3200 ∧
        exec (.pushpop raw) s = .next
          { s with prev := y, primed := true, rxQ := s.slot, ledN := pattern, full := false,
                   sStat := 2#2, rStat := 1#2 })

/-- R230: RESET from any state, the power-up state among them: the register values, the outputs, the same state from a
repeated RESET, no pending sample, and an unfiltered first sample after it. That the fields inputs and cycle stay is the
model's own (log entries 1 and 2, DESIGN CHOICE), and so is the coding of "the registers hold values" by the field
initialised (log entry 3, DEDUCED): R230 says nothing of them. -/
def Obligations.ResetGivesTheResetState : Prop :=
  (∀ w : CycleWord, w &&& 0x4000#15 = 0x4000#15 → decode w = .reset) ∧
  ∀ s : State, ∃ t, exec .reset s = .next t ∧
    t.prev = 0#12 ∧ t.primed = false ∧ t.slot = 0#12 ∧ t.full = false ∧ t.ledN = 0xFF#8 ∧
    t.rxQ = 0#12 ∧ t.sStat = 0#2 ∧ t.rStat = 0#2 ∧ t.initialised = true ∧
    t.inputs = s.inputs ∧ t.cycle = s.cycle ∧
    t.outputs = some { sReady := true, sStat := 0#2, rValid := false, rStat := 0#2, rxQ := 0#12,
                       ledN := 0xFF#8, filtQ := 0#12, filtPrimed := false } ∧
    exec .reset t = .next t ∧ t.pending = [] ∧
    ∀ raw : Sample, ∃ u, exec (.push raw) t = .next u ∧ u.prev = raw

/-- R231: with rst = 1 the cycle's operation is RESET whatever the other inputs hold: the Sampler does not filter, the
Channel neither pushes nor pops, the Renderer does not render, and the registers hold the reset state from that edge.
That the fields inputs and cycle stay is the model's own (log entries 1 and 2, DESIGN CHOICE), and so is the field
initialised (log entry 3, DEDUCED): R231 says nothing of them. -/
def Obligations.ResetDominatesEveryInput : Prop :=
  ∀ (w : CycleWord) (s : State), w.getLsbD 14 = true →
    cycleStep w s = .next { State.reset with inputs := s.inputs, cycle := s.cycle }

/-- R232: before the first RESET no output has a value, and a RESET gives the registers values that no register content
of the power-up state can change. That every other operation, NOP included, is a fault of the model there rests on the
derived table 95_test_vectors.md §2.9 and is log entry 3 (DEDUCED): R232 itself makes a register read the fault. -/
def Obligations.PowerUpStateHoldsNoValue : Prop :=
  ∀ s : State, s.initialised = false →
    s.outputs = none ∧
    (∀ i : Instr, i ≠ .reset → exec i s = .fault .readBeforeReset) ∧
    (∀ u : State, u.initialised = false → u.inputs = s.inputs → u.cycle = s.cycle →
      exec .reset u = exec .reset s)

/-- R21 to R26, R32, R109, R128: each register is written only by the operations its own entry names. The last clauses
are the model's own: that only RESET changes the field initialised (log entry 3, DEDUCED), and that exec leaves the
fields inputs and cycle as they are (log entries 1 and 2, DESIGN CHOICE). -/
def Obligations.RegistersChangeOnlyByTheirWriters : Prop :=
  ∀ (i : Instr) (s t : State), exec i s = .next t →
    ((t.prev ≠ s.prev ∨ t.primed ≠ s.primed) →
      i = .reset ∨ ∃ raw, i = .push raw ∨ i = .pushpop raw) ∧
    (t.slot ≠ s.slot → i = .reset ∨ (s.full = false ∧ ∃ raw, i = .push raw ∨ i = .pushpop raw)) ∧
    ((t.rxQ ≠ s.rxQ ∨ t.ledN ≠ s.ledN) →
      i = .reset ∨ (s.full = true ∧ (i = .pop ∨ ∃ raw, i = .pushpop raw))) ∧
    (t.full = true → s.full = false → ∃ raw, i = .push raw ∨ i = .pushpop raw) ∧
    (t.full = false → s.full = true → i = .reset ∨ i = .pop ∨ ∃ raw, i = .pushpop raw) ∧
    (t.initialised ≠ s.initialised → i = .reset) ∧
    t.inputs = s.inputs ∧ t.cycle = s.cycle

/-! ## Conditions and codes (60_exceptions.md) -/

/-- R205: the complete list of conditions and codes; code 3 is never produced. -/
def Obligations.StatusCodesFollowTheTable : Prop :=
  ∀ (w : CycleWord) (s : State), s.initialised = true →
    ∃ t, cycleStep w s = .next t ∧
      t.sStat = (if w.getLsbD 14 then 0#2 else if w.getLsbD 13 = false then 0#2
                 else if s.full then 2#2 else 1#2) ∧
      t.rStat = (if w.getLsbD 14 then 0#2 else if w.getLsbD 12 = false then 0#2
                 else if s.full then 1#2 else 2#2) ∧
      t.sStat ≠ 3#2 ∧ t.rStat ≠ 3#2

/-- R31, R125, R201, R202, R237: the levels s_ready and r_valid of a cycle predict the statuses that a send and a receive
of that cycle report after the edge. -/
def Obligations.HandshakeLevelsPredictStatuses : Prop :=
  ∀ (w : CycleWord) (s t : State) (o u : Outputs), s.outputs = some o →
    cycleStep w s = .next t → t.outputs = some u → w.getLsbD 14 = false →
    (w.getLsbD 13 = true → (o.sReady = true ↔ u.sStat = sAccepted) ∧
      (o.sReady = false ↔ u.sStat = sFull)) ∧
    (w.getLsbD 12 = true → (o.rValid = true ↔ u.rStat = rDelivered) ∧
      (o.rValid = false ↔ u.rStat = rEmpty)) ∧
    o.sReady = !o.rValid

/-- R109, R200, R216: the Sampler's registers after a cycle depend on rst, s_valid, s_raw and on the start-of-cycle prev,
primed and full only, and the Renderer's on rst, r_req and on slot, full, rx_q and led_n only. -/
def Obligations.StagesShareOnlyTheChannel : Prop :=
  ∀ (w v : CycleWord) (s u s' u' : State), s.initialised = true → u.initialised = true →
    cycleStep w s = .next s' → cycleStep v u = .next u' → w.getLsbD 14 = v.getLsbD 14 →
    s.full = u.full →
    (w.getLsbD 13 = v.getLsbD 13 → w.extractLsb' 0 12 = v.extractLsb' 0 12 →
      s.prev = u.prev → s.primed = u.primed →
      s'.prev = u'.prev ∧ s'.primed = u'.primed ∧ s'.sStat = u'.sStat) ∧
    (w.getLsbD 12 = v.getLsbD 12 → s.slot = u.slot → s.rxQ = u.rxQ → s.ledN = u.ledN →
      s'.rxQ = u'.rxQ ∧ s'.ledN = u'.ledN ∧ s'.rStat = u'.rStat)

/-- R12: exactly the parameter sets that meet every constraint elaborate, unchanged; the defaults are among them. -/
def Obligations.IllegalParametersAreRefused : Prop :=
  (∀ p : Params, (∃ e, p.elaborate = some e ∧ e.params = p) ↔
    (1 ≤ p.rawW ∧ 1 ≤ p.betaNum ∧ p.betaNum ≤ p.betaDen ∧ p.minAnalog < p.maxAnalog ∧
      p.maxAnalog ≤ 2 ^ p.rawW - 1 ∧ 1 ≤ p.bitWidth)) ∧
  (∀ p : Params, p.elaborate = none ↔ ¬ p.Legal) ∧
  (∃ e, Params.reference.elaborate = some e)

/-! ## Invariants (R38) -/

/-- R38, R230: the reset state is sound. -/
def Obligations.ResetStateIsSound : Prop := State.reset.Sound

/-- R38, and what the rules imply of the registers together: every step keeps soundness, whatever word the environment
presents. -/
def Obligations.EveryStepKeepsSoundness : Prop :=
  ∀ s t : State, s.Sound → step s = .next t → t.Sound

/-- R38, over every run from RESET (further RESETs allowed). -/
def Obligations.ReachableStatesMeetTheInvariants : Prop :=
  ∀ (ws : List CycleWord) (t : State), runWords ws State.reset = .next t →
    t.prev.toNat ≤ 2 ^ 12 - 1 ∧ t.slot.toNat ≤ 2 ^ 12 - 1 ∧ t.rxQ.toNat ≤ 2 ^ 12 - 1 ∧
    (t.full = true → t.slot ∈ filteredSamples ws State.reset) ∧
    (t.rxQ = 0#12 ∨ t.rxQ ∈ acceptedSamples ws State.reset) ∧
    t.sStat ≠ 3#2 ∧ t.rStat ≠ 3#2

/-- R13, R38, R104, R144: for every legal parameter set, one cycle of the parametric block keeps every register within
its width and the codes off 3, and its reset state is within them. -/
def Obligations.ParametricRegistersFitTheirWidths : Prop :=
  ∀ e : LegalParams, (Block.reset e).Fits e ∧
    ∀ (w : Bundle) (b : Block), w.Fits e → b.Fits e → (Block.step e w b).Fits e

/-! ## The Channel (20_memory.md, 41_channel.md) and the hazards (70_reset_and_hazards.md) -/

/-- R57: from RESET with no further RESET, the accepted values are the delivered ones, in order, and then the pending one,
if any. A RESET leaves none pending, and a sample is dropped only by a send that finds the Channel full. -/
def Obligations.ChannelIsFifo : Prop :=
  (∀ (ws : List CycleWord) (t : State), NoReset ws → runWords ws State.reset = .next t →
    acceptedSamples ws State.reset = deliveredSamples ws State.reset ++ t.pending ∧
    t.pending.length ≤ capacity ∧
    (t.full = true → ∃ u, exec .pop t = .next u ∧ u.rxQ = t.slot ∧ u.rStat = rDelivered)) ∧
  (∀ (w : CycleWord) (s t : State), s.initialised = true → cycleStep w s = .next t →
    (w.getLsbD 14 = true → t.pending = []) ∧
    (t.sStat = sAccepted → s.full = false) ∧
    (isSend w = true → t.sStat ≠ sAccepted → s.full = true))

/-- R59: the pending sample is the one accepted last, so it is what the Renderer sees next; a sample that is refused moves
the FilterState and leaves the pending one. -/
def Obligations.PendingSampleIsTheLastAccepted : Prop :=
  (∀ (ws : List CycleWord) (t : State), NoReset ws → runWords ws State.reset = .next t →
    t.full = true → (acceptedSamples ws State.reset).getLast? = some t.slot) ∧
  (∀ (raw : Sample) (s t : State), s.full = true → exec (.push raw) s = .next t →
    t.pending = s.pending ∧ t.prev = filteredSample s.primed s.prev raw)

/-- R127: with full = 1, a cycle that sends and does not receive reports Full and leaves slot and full unchanged. After
any number of cycles without a receive or a RESET, sends among them, the next pop delivers the held sample intact. -/
def Obligations.HeldSampleSurvivesBackpressure : Prop :=
  (∀ (w : CycleWord) (s : State), s.initialised = true → s.full = true → w.getLsbD 14 = false →
    w.getLsbD 13 = true → w.getLsbD 12 = false →
    ∃ t, cycleStep w s = .next t ∧ t.slot = s.slot ∧ t.full = s.full ∧ t.sStat = sFull) ∧
  (∀ (ws : List CycleWord) (s : State), s.initialised = true → s.full = true →
    (∀ w ∈ ws, w.getLsbD 14 = false ∧ w.getLsbD 12 = false) →
    ∃ t u, runWords ws s = .next t ∧ t.slot = s.slot ∧ t.full = true ∧
      acceptedSamples ws s = [] ∧
      exec .pop t = .next u ∧ u.rxQ = s.slot ∧ u.ledN = renderedPattern s.slot ∧
      u.rStat = rDelivered)

/-- R124: a send and a receive in one cycle, judged on the start-of-cycle full, have the outcome of one software
interleaving: the receive first where the Channel was empty, the send first where it was full. The other order, taken in
two cycles, leaves the Channel with the other occupancy. -/
def Obligations.SameCycleIsOneInterleaving : Prop :=
  ∀ (raw : Sample) (s : State), s.initialised = true →
    (s.full = false → ∃ t u v, exec (.pushpop raw) s = .next t ∧
      t.sStat = sAccepted ∧ t.rStat = rEmpty ∧ t.full = true ∧
      t.slot = filteredSample s.primed s.prev raw ∧
      exec .pop s = .next u ∧ exec (.push raw) u = .next v ∧ t = { v with rStat := u.rStat } ∧
      ∃ a b, exec (.push raw) s = .next a ∧ exec .pop a = .next b ∧ b.full = false) ∧
    (s.full = true → ∃ t u v, exec (.pushpop raw) s = .next t ∧
      t.sStat = sFull ∧ t.rStat = rDelivered ∧ t.full = false ∧ t.slot = s.slot ∧ t.rxQ = s.slot ∧
      exec (.push raw) s = .next u ∧ exec .pop u = .next v ∧ t = { v with sStat := u.sStat } ∧
      ∃ a b, exec .pop s = .next a ∧ exec (.push raw) a = .next b ∧ b.full = true)

/-- R126: each cycle of waiting on an empty Channel reports R_EMPTY and changes nothing else, and there is no timeout. A
receive from a full Channel pops exactly one sample, after which the next one waits again. A wait that ends, whatever else
the environment presents meanwhile, has delivered exactly one sample, at its last cycle. That other operations, sends and
RESETs among them, may stand in such a wait is the model's reading of R76 (log entry 5, DEDUCED), not the rules' words. -/
def Obligations.WaitingReceiveChangesNothing : Prop :=
  (∀ (k : Nat) (s : State), s.initialised = true → s.full = false →
    runWords (List.replicate (k + 1) (encode .pop)) s = .next { s with sStat := sIdle, rStat := rEmpty }) ∧
  (∀ (k : Nat) (s : State), s.initialised = true → s.full = true →
    deliveredSamples (List.replicate (k + 1) (encode .pop)) s = [s.slot]) ∧
  (∀ (ws : List CycleWord) (s : State) (r : Waited CycleWord State), recv ws s = some r →
    ∃ before, ws = before ++ r.rest ∧ runWords before s = .next r.after ∧
      deliveredSamples before s = [r.after.rxQ] ∧ r.after.rStat = rDelivered ∧ r.after.full = false)

/-- R58, R235: a sample accepted in a cycle is not seen by a receive of that cycle, whatever the sample is, and the next
cycle's receive delivers it. -/
def Obligations.PushedSampleIsPoppableNextCycle : Prop :=
  ∀ (raw : Sample) (s : State), s.initialised = true → s.full = false →
    ∃ t u, exec (.pushpop raw) s = .next t ∧ t.sStat = sAccepted ∧ t.rStat = rEmpty ∧
      t.rxQ = s.rxQ ∧ t.ledN = s.ledN ∧
      exec .pop t = .next u ∧ u.rStat = rDelivered ∧
      u.rxQ = filteredSample s.primed s.prev raw

/-- R236: a send in the cycle of a pop reports Full; a send in the cycle after a pop is accepted, and s_ready = 1 there. -/
def Obligations.PoppedChannelAcceptsNextCycle : Prop :=
  ∀ (raw raw' : Sample) (s : State), s.initialised = true → s.full = true →
    ∃ t u, exec (.pushpop raw) s = .next t ∧ t.sStat = sFull ∧ t.rStat = rDelivered ∧
      t.sReady = true ∧
      exec (.push raw') t = .next u ∧ u.sStat = sAccepted ∧ u.slot = u.prev

/-- R25, R150, R238: the pattern and the received sample hold their values through any number of cycles without a receive
or a RESET, and the FilterState through any number without a send or a RESET. -/
def Obligations.RegistersHoldBetweenTheirEvents : Prop :=
  ∀ (ws : List CycleWord) (s t : State), s.initialised = true → NoReset ws →
    runWords ws s = .next t →
    ((∀ w ∈ ws, w.getLsbD 12 = false) → t.ledN = s.ledN ∧ t.rxQ = s.rxQ) ∧
    ((∀ w ∈ ws, w.getLsbD 13 = false) → t.prev = s.prev ∧ t.primed = s.primed)

/-- R23, R37 (and I13 of 93_implementation_defined.md): while full = 0 the stale contents of slot have no effect on any
output, now or later. -/
def Obligations.StaleSlotIsNeverObserved : Prop :=
  ∀ (ws : List CycleWord) (s : State) (stale : Sample), s.full = false →
    ({ s with slot := stale } : State).outputs = s.outputs ∧
    outputTrace ws { s with slot := stale } = outputTrace ws s

/-- R21: while primed = 0 the value of prev has no effect on any later output other than filt_q, and after the first send
none on filt_q either. -/
def Obligations.UnprimedPrevShowsOnlyOnFiltQ : Prop :=
  ∀ (ws : List CycleWord) (s : State) (other : Sample), s.primed = false →
    (outputTrace ws { s with prev := other }).map (Option.map fun o => { o with filtQ := 0#12 }) =
      (outputTrace ws s).map (Option.map fun o => { o with filtQ := 0#12 }) ∧
    ∀ w : CycleWord, isSend w = true → outputTrace (w :: ws) { s with prev := other } = outputTrace (w :: ws) s

/-! ## The filter (00_scope.md R14, 40_sampler_filter.md) -/

/-- R14: rnd(N, D) is N/D rounded to the nearest integer, ties away from zero, and has the rule's closed forms; every N
that the filter and the scaler pass to it is ≥ 0. -/
def Obligations.RoundingIsNearestWithTiesAway : Prop :=
  (∀ (p : Params) (prev raw c : Int), p.Legal → 0 ≤ prev → 0 ≤ raw →
    0 ≤ p.betaNum * raw + (p.betaDen - p.betaNum) * prev ∧
    0 ≤ (clamp p c - p.minAnalog) * p.outputMax) ∧
  ∀ n d : Int, 0 < d →
    |2 * (d * rnd n d) - 2 * n| ≤ d ∧
    (|2 * (d * rnd n d) - 2 * n| = d → |n| < |d * rnd n d|) ∧
    (0 ≤ n → rnd n d = ⌊((2 * n + d : Int) : ℚ) / ((2 * d : Int) : ℚ)⌋) ∧
    (n < 0 → rnd n d = -⌊((-2 * n + d : Int) : ℚ) / ((2 * d : Int) : ℚ)⌋)

/-- R103: the closed form of FILT at the default parameters, and its increment form for any legal parameters. -/
def Obligations.FilterClosedForms : Prop :=
  (∀ prev raw : Int, 0 ≤ prev → 0 ≤ raw →
    filt Params.reference true prev raw = (raw + 99 * prev + 50) / 100) ∧
  (∀ (p : Params) (prev raw : Int), p.Legal → 0 ≤ prev → 0 ≤ raw →
    filt p true prev raw =
      prev + (2 * p.betaNum * (raw - prev) + p.betaDen) / (2 * p.betaDen))

/-- R104: the filter stays between its input and its state, its numerator and rounding operand have the stated bounds,
and its result is stored without loss. -/
def Obligations.FilterStaysBetweenInputAndState : Prop :=
  (∀ (p : Params) (prev raw : Int), p.Legal → 0 ≤ prev → prev ≤ 2 ^ p.rawW - 1 → 0 ≤ raw →
    raw ≤ 2 ^ p.rawW - 1 →
    min raw prev ≤ filt p true prev raw ∧ filt p true prev raw ≤ max raw prev ∧
    0 ≤ p.betaNum * raw + (p.betaDen - p.betaNum) * prev ∧
    p.betaNum * raw + (p.betaDen - p.betaNum) * prev ≤ p.betaDen * (2 ^ p.rawW - 1)) ∧
  (∀ prev raw : Sample, valueOf raw + 99 * valueOf prev ≤ 409500 ∧
    2 * (valueOf raw + 99 * valueOf prev) + 100 ≤ 819100 ∧
    ∀ primed, valueOf (filteredSample primed prev raw) =
      filt Params.reference primed (valueOf prev) (valueOf raw))

/-- R105: a tie rounds up, at any legal parameters with an even BETA_DEN; where ties lie at the defaults; the examples. -/
def Obligations.FilterTiesRoundUp : Prop :=
  (∀ (p : Params) (prev raw n : Int), p.Legal → 0 ≤ prev → 0 ≤ raw →
    n = p.betaNum * raw + (p.betaDen - p.betaNum) * prev → (p.betaDen : Int) % 2 = 0 →
    n % p.betaDen = p.betaDen / 2 →
    2 * n = (2 * (n / p.betaDen) + 1) * p.betaDen ∧ filt p true prev raw = n / p.betaDen + 1) ∧
  (∀ prev raw : Int, 0 ≤ prev → 0 ≤ raw → (raw + 99 * prev) % 100 = 50 →
    100 * filt Params.reference true prev raw = raw + 99 * prev + 50) ∧
  filt Params.reference true 0 50 = 1 ∧ filt Params.reference true 50 0 = 50 ∧
  filt Params.reference true 0 150 = 2

/-- R107: the dead band, at any legal parameters and at the defaults, with the counts and end values the rule gives for
held inputs, and the steady state from the uninitialized one. -/
def Obligations.DeadBandIsExact : Prop :=
  (∀ (p : Params) (prev raw : Int), p.Legal → 0 ≤ prev → 0 ≤ raw →
    (filt p true prev raw = prev ↔
      -(p.betaDen : Int) ≤ 2 * (p.betaNum * (raw - prev)) ∧ 2 * (p.betaNum * (raw - prev)) < p.betaDen)) ∧
  (∀ prev raw : Int, 0 ≤ prev → 0 ≤ raw →
    (filt Params.reference true prev raw = prev ↔ -50 ≤ raw - prev ∧ raw - prev ≤ 49)) ∧
  (fun v => filt Params.reference true v 4095)^[427] 0 = 4046 ∧
  (fun v => filt Params.reference true v 4095)^[426] 0 ≠ 4046 ∧
  (fun v => filt Params.reference true v 0)^[427] 4095 = 50 ∧
  (fun v => filt Params.reference true v 0)^[426] 4095 ≠ 50 ∧
  (∃ n, (fun v => filt Params.reference true v 1000)^[n] 0 = 951) ∧
  (∃ n, (fun v => filt Params.reference true v 1000)^[n] 4095 = 1050) ∧
  (∀ (prev r : Int) (n : Nat), 0 ≤ r →
    (fun v => filt Params.reference true v r)^[n] (filt Params.reference false prev r) = r)

/-- R107: under a constant input the FilterState is within the dead band after at most 427 pushes, from any state of the
initialised block, and a further push of that input leaves it where it is. -/
def Obligations.ConstantInputSettlesInTheDeadBand : Prop :=
  ∀ (raw : Sample) (s : State), s.initialised = true →
    ∃ t u, runWords (List.replicate 427 (encode (.push raw))) s = .next t ∧
      -50 ≤ valueOf raw - valueOf t.prev ∧ valueOf raw - valueOf t.prev ≤ 49 ∧
      exec (.push raw) t = .next u ∧ u.prev = t.prev

/-- R108: every FilteredSample of a run from RESET lies between the least and the greatest raw input so far. -/
def Obligations.FilteredSamplesStayInInputRange : Prop :=
  ∀ (ws : List CycleWord) (lo hi : Nat),
    (∀ r ∈ rawSamples ws State.reset, lo ≤ r.toNat ∧ r.toNat ≤ hi) →
    ∀ y ∈ filteredSamples ws State.reset, lo ≤ y.toNat ∧ y.toNat ≤ hi

/-! ## The Renderer (42_renderer.md) -/

/-- R141, R142: both bounds are enforced on every integer, CLAMP is idempotent, and the values the rules name. -/
def Obligations.ClampEnforcesBothBounds : Prop :=
  (∀ (p : Params) (v : Int), p.Legal →
    (p.minAnalog ≤ clamp p v ∧ clamp p v ≤ p.maxAnalog) ∧
    (v < p.minAnalog → clamp p v = p.minAnalog) ∧ (v > p.maxAnalog → clamp p v = p.maxAnalog) ∧
    (p.minAnalog ≤ v → v ≤ p.maxAnalog → clamp p v = v) ∧ clamp p (clamp p v) = clamp p v) ∧
  clamp Params.reference 500 = 600 ∧ clamp Params.reference 4200 = 3800 ∧
  clamp Params.reference 2200 = 2200 ∧
  ∀ v : Sample, (clamp Params.reference (valueOf v) = 600 ↔ v.toNat ≤ 600) ∧
    (clamp Params.reference (valueOf v) = 3800 ↔ 3800 ≤ v.toNat) ∧
    (clamp Params.reference (valueOf v) = valueOf v ↔ 600 ≤ v.toNat ∧ v.toNat ≤ 3800)

/-- R144: SCALE of a clamped value lies in [0, OUTPUT_MAX] at any legal parameters; the bounds of its operands and its
closed form at the defaults. -/
def Obligations.ScaleFitsTheOutputRange : Prop :=
  (∀ (p : Params) (c : Int), p.Legal → p.minAnalog ≤ c → c ≤ p.maxAnalog →
    0 ≤ (c - p.minAnalog) * p.outputMax ∧
    (c - p.minAnalog) * p.outputMax ≤ (p.maxAnalog - p.minAnalog) * p.outputMax ∧
    0 ≤ scale p c ∧ scale p c ≤ p.outputMax) ∧
  (∀ c : Int, 600 ≤ c → c ≤ 3800 → (c - 600) * 255 ≤ 816000 ∧
    2 * ((c - 600) * 255) + 3200 ≤ 1635200 ∧
    scale Params.reference c = ((c - 600) * 255 + 1600) / 3200)

/-- R145: SCALE is monotone with exact ends at any legal parameters; at the defaults its only exact ties, the largest
input that gives 0 and the smallest that gives OUTPUT_MAX. -/
def Obligations.ScaleIsMonotoneWithExactEnds : Prop :=
  (∀ (p : Params) (a b : Int), p.Legal → p.minAnalog ≤ a → a ≤ b → b ≤ p.maxAnalog →
    scale p a ≤ scale p b) ∧
  (∀ p : Params, p.Legal → scale p p.minAnalog = 0 ∧ scale p p.maxAnalog = p.outputMax) ∧
  (∀ c : Int, 600 ≤ c → c ≤ 3800 →
    (((c - 600) * 255) % 3200 = 1600 ↔ c = 920 ∨ c = 1560 ∨ c = 2200 ∨ c = 2840 ∨ c = 3480) ∧
    (scale Params.reference c = 0 ↔ c ≤ 606) ∧ (scale Params.reference c = 255 ↔ 3794 ≤ c)) ∧
  scale Params.reference 920 = 26 ∧ scale Params.reference 1560 = 77 ∧
  scale Params.reference 2200 = 128 ∧ scale Params.reference 2840 = 179 ∧
  scale Params.reference 3480 = 230

/-- R147: on [0, OUTPUT_MAX] of any width the greedy encoder is the bitwise complement, with residue 0; indicator b is lit
exactly when bit b of s is 1, and as many indicators are lit as s has 1 bits. -/
def Obligations.EncoderIsBitwiseComplement : Prop :=
  ∀ w s : Nat, s ≤ 2 ^ w - 1 →
    enc w s = ~~~(BitVec.ofNat w s) ∧ encResidue w s = 0 ∧
    (∀ b, b < w → (lit (enc w s) b = true ↔ s.testBit b = true)) ∧
    litCount (enc w s) = oneBits w s

/-- R146, R149: the encoder at its ends and beyond OUTPUT_MAX, at any width: all off for 0, all on for OUTPUT_MAX, all on
with a residue left beyond it. -/
def Obligations.EncoderAtAndBeyondItsEnds : Prop :=
  (∀ w : Nat, enc w 0 = BitVec.allOnes w ∧ enc w (2 ^ w - 1) = 0#w) ∧
  (∀ w s : Nat, 2 ^ w - 1 < s → enc w s = 0#w ∧ encResidue w s = s - (2 ^ w - 1) ∧ 0 < encResidue w s) ∧
  enc 8 0 = 0xFF#8 ∧ enc 8 255 = 0x00#8

/-- R151: the binary code that the lit indicators show does not decrease with the sample, at any legal parameters; the
number of lit indicators does. -/
def Obligations.RenderedCodeIsMonotone : Prop :=
  (∀ (p : Params) (v w : Int), p.Legal → v ≤ w →
    (~~~(render p v)).toNat ≤ (~~~(render p w)).toNat) ∧
  scale Params.reference 2199 = 127 ∧ render Params.reference 2199 = 0x80#8 ∧ litCount (0x80#8) = 7 ∧
  scale Params.reference 2200 = 128 ∧ render Params.reference 2200 = 0x7F#8 ∧ litCount (0x7F#8) = 1

/-! ## The machine at any legal parameters (R5, R12) -/

/-- R5: the machine with the default literals is the instance, at the reference parameters, of the machine of any legal
set: decoder, encoder, reset and power-up states, operations, step, output ports, assembler, disassembler and the wait loop of RECV (the model's
reading of R76, log entry 5, DEDUCED). -/
def Obligations.MachineIsTheReferenceInstance : Prop :=
  (∀ w : CycleWord, Elaborated.decode .reference w = Elaborated.ofInstr (decode w)) ∧
  (∀ i : Instr, Elaborated.encode .reference (Elaborated.ofInstr i) = encode i) ∧
  Elaborated.reset .reference = Elaborated.ofState State.reset ∧
  Elaborated.powerUp .reference = Elaborated.ofState State.powerUp ∧
  (∀ (i : Instr) (s : State), Elaborated.exec .reference (Elaborated.ofInstr i) (Elaborated.ofState s) =
    Elaborated.ofOutcome (exec i s)) ∧
  (∀ s : State, Elaborated.step .reference (Elaborated.ofState s) = Elaborated.ofOutcome (step s)) ∧
  (∀ s : State, (Elaborated.ofState s).outputs = s.outputs.map Elaborated.ofOutputs) ∧
  (∀ lines : List (List Char), Elaborated.assemble .reference lines = assemble lines) ∧
  (∀ w : CycleWord, Elaborated.disassemble .reference w = disassemble w) ∧
  ∀ (ws : List CycleWord) (s : State), Elaborated.recv .reference ws (Elaborated.ofState s) =
    (recv ws s).map Elaborated.ofWaited

/-- R70, R71, R72 at any legal parameters: the decoder reads every operation back from its canonical word. -/
def Obligations.ElaboratedDecodeGivesBackEncoded : Prop :=
  ∀ (e : LegalParams) (op : Elaborated.Operation e), Elaborated.decode e (Elaborated.encode e op) = op

/-- R70, R170, R31 at any legal parameters, with R13, R104 and R144 (no result loses a bit where its register stores it):
one cycle of the elaborated machine is Step(S, w) on the word's fields and the numbers its registers hold, and the ports
show the new registers. Before the first RESET (R232; 95_test_vectors.md §2.9, log entry 3) no port has a value, a word
with R = 1 gives the reset registers, and every other word is the model's fault. The fields inputs and cycle, which the
cycle keeps, are the model's own (log entries 1 and 2). -/
def Obligations.ElaboratedCycleIsLosslessStep : Prop :=
  (∀ (e : LegalParams) (w : Elaborated.WordOf e) (s : Elaborated.BlockState e) (r : Elaborated.Registers e),
    s.registers = some r →
    ∃ u : Elaborated.Registers e, Elaborated.cycleStep e w s = .next { s with registers := some u } ∧
      u.toBlock = Block.step e (Bundle.ofWord e w.toNat) r.toBlock ∧
      ({ s with registers := some u } : Elaborated.BlockState e).outputs =
        some { sReady := !u.full, sStat := u.sStat, rValid := u.full, rStat := u.rStat, rxQ := u.rxQ,
               ledN := u.ledN, filtQ := u.prev, filtPrimed := u.primed }) ∧
  ∀ (e : LegalParams) (w : Elaborated.WordOf e) (s : Elaborated.BlockState e), s.registers = none →
    s.outputs = none ∧
    (w.getLsbD (e.params.rawW + 2) = true →
      ∃ u : Elaborated.Registers e, Elaborated.cycleStep e w s = .next { s with registers := some u } ∧
        u.toBlock = Block.reset e) ∧
    (w.getLsbD (e.params.rawW + 2) = false → Elaborated.cycleStep e w s = .fault .readBeforeReset)

/-! ## Invariants of one step that carry the history of a run -/

/-- R108 as an invariant: the reset state has it, and every step keeps an initialized FilterState within any bounds that
hold of the raw sample of that step's iteration, if it makes one. -/
def Obligations.StepKeepsFilterStateWithinBounds : Prop :=
  ∀ lo hi : Nat, State.reset.FilterWithin lo hi ∧
    ∀ s t : State, s.FilterWithin lo hi →
      (∀ r ∈ rawSamples [s.currentWord] s, lo ≤ r.toNat ∧ r.toNat ≤ hi) →
      step s = .next t → t.FilterWithin lo hi

/-- R57 as an invariant: from a state whose accepted history is its delivered history and then its pending sample, every
step without RESET adds what it accepts and delivers to the two and keeps that. With both histories empty the reset
state has it. -/
def Obligations.StepKeepsFifoBalance : Prop :=
  State.reset.FifoBalanced [] [] ∧
  ∀ (accepted delivered : List Sample) (s t : State), s.FifoBalanced accepted delivered →
    s.currentWord.getLsbD 14 = false → step s = .next t →
    t.FifoBalanced (accepted ++ acceptedSamples [s.currentWord] s)
      (delivered ++ deliveredSamples [s.currentWord] s)

/-- R38 as an invariant: a pending sample is one of the history's FilteredSamples and one that it accepted, and rx_q is
its reset value or an accepted sample. Every step keeps it while it adds its own samples to the two histories. -/
def Obligations.StepKeepsSampleHistory : Prop :=
  State.reset.HoldsSamplesOf [] [] ∧
  ∀ (filtered accepted : List Sample) (s t : State), s.HoldsSamplesOf filtered accepted →
    step s = .next t →
    t.HoldsSamplesOf (filtered ++ filteredSamples [s.currentWord] s)
      (accepted ++ acceptedSamples [s.currentWord] s)
end

