-- ==== Sys2Proof/Laws/Datapath.lean ====
section
/-!
SUPPORT. Small lemmas of the datapath functions: the branch each takes.
-/
namespace Sys2Proof.Machine

theorem rnd_of_nonneg {n : Int} (d : Int) (h : 0 ≤ n) : rnd n d = (2 * n + d) / (2 * d) := by
  simp only [rnd, if_pos h]

theorem rnd_of_neg {n : Int} (d : Int) (h : n < 0) : rnd n d = -((-2 * n + d) / (2 * d)) := by
  simp only [rnd, if_neg (Int.not_le.mpr h)]

@[simp] theorem filt_unprimed (p : Params) (prev raw : Int) : filt p false prev raw = raw := rfl

theorem filt_primed (p : Params) (prev raw : Int) :
    filt p true prev raw = rnd (p.betaNum * raw + (p.betaDen - p.betaNum) * prev) p.betaDen := rfl

theorem clamp_below {p : Params} {v : Int} (h : v < p.minAnalog) : clamp p v = p.minAnalog := by
  simp only [clamp, if_pos h]

theorem clamp_above {p : Params} {v : Int} (h : p.maxAnalog < v) (hle : p.minAnalog ≤ p.maxAnalog) :
    clamp p v = p.maxAnalog := by
  rw [clamp, if_neg (by omega), if_pos h]

theorem clamp_inside {p : Params} {v : Int} (hlo : p.minAnalog ≤ v) (hhi : v ≤ p.maxAnalog) :
    clamp p v = v := by
  unfold clamp
  rw [if_neg (by omega), if_neg (by omega)]

@[simp] theorem encLoop_zero {w : Nat} (r : Nat) (pat : BitVec w) : encLoop 0 r pat = (pat, r) := rfl

theorem encLoop_succ {w : Nat} (b r : Nat) (pat : BitVec w) : encLoop (b + 1) r pat =
    if 2 ^ b ≤ r then encLoop b (r - 2 ^ b) (clearBit pat b) else encLoop b r pat := rfl

theorem clearBit_getLsbD {w : Nat} (pat : BitVec w) (b i : Nat) :
    (clearBit pat b).getLsbD i = (pat.getLsbD i && !decide (b = i)) := by
  by_cases hi : i < w
  · simp [clearBit, hi]
    by_cases h : b = i
    · simp [h]
    · simp [h, Ne.symm h]
  · simp [BitVec.getLsbD_of_ge _ i (Nat.not_lt.mp hi)]

@[simp] theorem reference_outputMax : Params.reference.outputMax = 255 := rfl

@[simp] theorem valueOf_nonneg (x : Sample) : 0 ≤ valueOf x := by simp [valueOf]

theorem valueOf_le (x : Sample) : valueOf x ≤ 4095 := by
  have := x.isLt
  simp only [valueOf]
  omega

end Sys2Proof.Machine
end

