-- ==== Sys2Proof/Laws/Decode.lean ====
section
/-!
SUPPORT. Small lemmas on the cycle word: which field selects which operation, and the fields of an encoded operation.
-/
namespace Sys2Proof

theorem decode_of_rst {w : CycleWord} (h : fieldR w = true) : decode w = .reset := by
  simp [decode, h]

theorem decode_nop {w : CycleWord} (hR : fieldR w = false) (hV : fieldV w = false)
    (hQ : fieldQ w = false) : decode w = .nop := by simp [decode, hR, hV, hQ]

theorem decode_push {w : CycleWord} (hR : fieldR w = false) (hV : fieldV w = true)
    (hQ : fieldQ w = false) : decode w = .push (fieldRaw w) := by simp [decode, hR, hV, hQ]

theorem decode_pop {w : CycleWord} (hR : fieldR w = false) (hV : fieldV w = false)
    (hQ : fieldQ w = true) : decode w = .pop := by simp [decode, hR, hV, hQ]

theorem decode_pushpop {w : CycleWord} (hR : fieldR w = false) (hV : fieldV w = true)
    (hQ : fieldQ w = true) : decode w = .pushpop (fieldRaw w) := by simp [decode, hR, hV, hQ]

theorem cycleWordOf_of_lt {v : Nat} (h : v < 2 ^ 15) : cycleWordOf v = .ok (BitVec.ofNat 15 v) := by
  simp only [cycleWordOf, if_pos h]

theorem cycleWordOf_of_ge {v : Nat} (h : 2 ^ 15 ≤ v) :
    cycleWordOf v = .error .widerThanCycleWord := by
  simp only [cycleWordOf, if_neg (Nat.not_lt.mpr h)]

end Sys2Proof
end

