-- ==== Sys2Proof/Laws/Elaborated.lean ====
section
/-!
SUPPORT. What the shared definitions of the machine at any legal parameters can do: the branches of its decoder and of
exec, the fields of store and toBlock, and the bridge to the machine of Step.lean.
-/
namespace Sys2Proof.Machine.Elaborated

variable {e : LegalParams}

/-! ### The decoder's branches (R72) -/

theorem decode_of_rst {w : WordOf e} (h : w.getLsbD (e.params.rawW + 2) = true) : decode e w = .reset := by
  simp [decode, h]

theorem decode_nop {w : WordOf e} (hR : w.getLsbD (e.params.rawW + 2) = false)
    (hV : w.getLsbD (e.params.rawW + 1) = false) (hQ : w.getLsbD e.params.rawW = false) :
    decode e w = .nop := by
  simp only [decode, hR, hV, hQ, Bool.false_eq_true, if_false]

theorem decode_push {w : WordOf e} (hR : w.getLsbD (e.params.rawW + 2) = false)
    (hV : w.getLsbD (e.params.rawW + 1) = true) (hQ : w.getLsbD e.params.rawW = false) :
    decode e w = .push (w.extractLsb' 0 e.params.rawW) := by
  simp only [decode, hR, hV, hQ, Bool.false_eq_true, if_false]

theorem decode_pop {w : WordOf e} (hR : w.getLsbD (e.params.rawW + 2) = false)
    (hV : w.getLsbD (e.params.rawW + 1) = false) (hQ : w.getLsbD e.params.rawW = true) :
    decode e w = .pop := by
  simp only [decode, hR, hV, hQ, Bool.false_eq_true, if_false]

theorem decode_pushpop {w : WordOf e} (hR : w.getLsbD (e.params.rawW + 2) = false)
    (hV : w.getLsbD (e.params.rawW + 1) = true) (hQ : w.getLsbD e.params.rawW = true) :
    decode e w = .pushpop (w.extractLsb' 0 e.params.rawW) := by
  simp only [decode, hR, hV, hQ, Bool.false_eq_true, if_false]

/-! ### exec -/

@[simp] theorem exec_reset (s : BlockState e) :
    exec e .reset s = .next { s with registers := some (.store e (Block.reset e)) } := rfl

theorem exec_of_registers {s : BlockState e} {r : Registers e} (op : Operation e) (h : s.registers = some r) :
    exec e op s = .next { s with registers := some (.store e (Block.step e op.bundle r.toBlock)) } := by
  cases op <;> simp [exec, h, Operation.bundle, Block.step]

theorem exec_of_powerUp {s : BlockState e} {op : Operation e} (h : s.registers = none) (hop : op ≠ .reset) :
    exec e op s = .fault .readBeforeReset := by
  cases op <;> simp_all [exec]

/-! ### The step of R170, register by register, in a cycle without RESET -/

@[simp] theorem step_of_rst {w : Bundle} (b : Block) (h : w.rst = true) : Block.step e w b = Block.reset e := by
  simp [Block.step, h]

/-! ### Storing numbers in registers and reading them back (R13) -/

@[simp] theorem store_primed (b : Block) : (Registers.store e b).primed = b.primed := rfl
@[simp] theorem store_full (b : Block) : (Registers.store e b).full = b.full := rfl
@[simp] theorem toBlock_primed (r : Registers e) : r.toBlock.primed = r.primed := rfl
@[simp] theorem toBlock_full (r : Registers e) : r.toBlock.full = r.full := rfl

/-- A number of w bits survives being stored. -/
theorem ofInt_toNat {w : Nat} {v : Int} (h0 : 0 ≤ v) (h : v ≤ 2 ^ w - 1) : ((BitVec.ofInt w v).toNat : Int) = v := by
  rw [BitVec.toNat_ofInt]
  have hlt : v < ((2 ^ w : Nat) : Int) := by push_cast; omega
  rw [Int.emod_eq_of_lt h0 hlt, Int.toNat_of_nonneg h0]

/-- Numbers that fit the widths of R20 are stored without loss. -/
theorem store_toBlock {b : Block} (h : b.Fits e) : (Registers.store e b).toBlock = b := by
  obtain ⟨p0, p1, s0, s1, r0, r1, hl, hs, hr⟩ := h
  have hpow := Nat.two_pow_pos e.params.bitWidth
  cases b
  simp only [Registers.store, Registers.toBlock, Block.mk.injEq, BitVec.toNat_ofNat, true_and]
  exact ⟨ofInt_toNat p0 p1, ofInt_toNat s0 s1, Nat.mod_eq_of_lt (by simp only at hl; omega), ofInt_toNat r0 r1,
    Nat.mod_eq_of_lt (Nat.lt_succ_of_lt hs), Nat.mod_eq_of_lt (Nat.lt_succ_of_lt hr)⟩

/-! ### The bridge -/

@[simp] theorem ofState_inputs (s : State) : (ofState s).inputs = s.inputs := rfl
@[simp] theorem ofState_cycle (s : State) : (ofState s).cycle = s.cycle := rfl

theorem ofState_registers_powerUp {s : State} (h : s.initialised = false) : (ofState s).registers = none := by
  simp [ofState, h]

theorem ofState_registers_toBlock {s : State} (h : s.initialised = true) :
    (ofState s).registers.map Registers.toBlock = some s.toBlock := by
  simp only [ofState, h, if_true, Option.map_some, Option.some.injEq]
  rfl

end Sys2Proof.Machine.Elaborated
end

