-- ==== Sys2Proof/Laws/State.lean ====
section
/-!
SUPPORT. One lemma per field per update of State, each true by rfl, so that no proof unfolds a record update.
-/
namespace Sys2Proof.Machine

/-! ### slotWrite -/

@[simp] theorem slotWrite_prev (v : Sample) (t : State) : (slotWrite v t).prev = t.prev := rfl
@[simp] theorem slotWrite_primed (v : Sample) (t : State) : (slotWrite v t).primed = t.primed := rfl
@[simp] theorem slotWrite_slot (v : Sample) (t : State) : (slotWrite v t).slot = v := rfl
@[simp] theorem slotWrite_full (v : Sample) (t : State) : (slotWrite v t).full = true := rfl
@[simp] theorem slotWrite_ledN (v : Sample) (t : State) : (slotWrite v t).ledN = t.ledN := rfl
@[simp] theorem slotWrite_rxQ (v : Sample) (t : State) : (slotWrite v t).rxQ = t.rxQ := rfl
@[simp] theorem slotWrite_sStat (v : Sample) (t : State) : (slotWrite v t).sStat = t.sStat := rfl
@[simp] theorem slotWrite_rStat (v : Sample) (t : State) : (slotWrite v t).rStat = t.rStat := rfl
@[simp] theorem slotWrite_initialised (v : Sample) (t : State) : (slotWrite v t).initialised = t.initialised := rfl
@[simp] theorem slotWrite_inputs (v : Sample) (t : State) : (slotWrite v t).inputs = t.inputs := rfl
@[simp] theorem slotWrite_cycle (v : Sample) (t : State) : (slotWrite v t).cycle = t.cycle := rfl

/-! ### slotRead -/

@[simp] theorem slotRead_fst (s t : State) : (slotRead s t).1 = s.slot := rfl
@[simp] theorem slotRead_snd_prev (s t : State) : ((slotRead s t).2).prev = t.prev := rfl
@[simp] theorem slotRead_snd_primed (s t : State) : ((slotRead s t).2).primed = t.primed := rfl
@[simp] theorem slotRead_snd_slot (s t : State) : ((slotRead s t).2).slot = t.slot := rfl
@[simp] theorem slotRead_snd_full (s t : State) : ((slotRead s t).2).full = false := rfl
@[simp] theorem slotRead_snd_ledN (s t : State) : ((slotRead s t).2).ledN = t.ledN := rfl
@[simp] theorem slotRead_snd_rxQ (s t : State) : ((slotRead s t).2).rxQ = s.slot := rfl
@[simp] theorem slotRead_snd_sStat (s t : State) : ((slotRead s t).2).sStat = t.sStat := rfl
@[simp] theorem slotRead_snd_rStat (s t : State) : ((slotRead s t).2).rStat = t.rStat := rfl
@[simp] theorem slotRead_snd_initialised (s t : State) : ((slotRead s t).2).initialised = t.initialised := rfl
@[simp] theorem slotRead_snd_inputs (s t : State) : ((slotRead s t).2).inputs = t.inputs := rfl
@[simp] theorem slotRead_snd_cycle (s t : State) : ((slotRead s t).2).cycle = t.cycle := rfl

/-! ### renderOut -/

@[simp] theorem renderOut_prev (v : Sample) (t : State) : (renderOut v t).prev = t.prev := by simp only [renderOut]
@[simp] theorem renderOut_primed (v : Sample) (t : State) : (renderOut v t).primed = t.primed := by simp only [renderOut]
@[simp] theorem renderOut_slot (v : Sample) (t : State) : (renderOut v t).slot = t.slot := by simp only [renderOut]
@[simp] theorem renderOut_full (v : Sample) (t : State) : (renderOut v t).full = t.full := by simp only [renderOut]
@[simp] theorem renderOut_ledN (v : Sample) (t : State) : (renderOut v t).ledN = renderedPattern v := by simp only [renderOut]
@[simp] theorem renderOut_rxQ (v : Sample) (t : State) : (renderOut v t).rxQ = t.rxQ := by simp only [renderOut]
@[simp] theorem renderOut_sStat (v : Sample) (t : State) : (renderOut v t).sStat = t.sStat := by simp only [renderOut]
@[simp] theorem renderOut_rStat (v : Sample) (t : State) : (renderOut v t).rStat = t.rStat := by simp only [renderOut]
@[simp] theorem renderOut_initialised (v : Sample) (t : State) : (renderOut v t).initialised = t.initialised := by simp only [renderOut]
@[simp] theorem renderOut_inputs (v : Sample) (t : State) : (renderOut v t).inputs = t.inputs := by simp only [renderOut]
@[simp] theorem renderOut_cycle (v : Sample) (t : State) : (renderOut v t).cycle = t.cycle := by simp only [renderOut]

/-! ### noSend -/

@[simp] theorem noSend_prev (t : State) : (noSend t).prev = t.prev := rfl
@[simp] theorem noSend_primed (t : State) : (noSend t).primed = t.primed := rfl
@[simp] theorem noSend_slot (t : State) : (noSend t).slot = t.slot := rfl
@[simp] theorem noSend_full (t : State) : (noSend t).full = t.full := rfl
@[simp] theorem noSend_ledN (t : State) : (noSend t).ledN = t.ledN := rfl
@[simp] theorem noSend_rxQ (t : State) : (noSend t).rxQ = t.rxQ := rfl
@[simp] theorem noSend_sStat (t : State) : (noSend t).sStat = sIdle := rfl
@[simp] theorem noSend_rStat (t : State) : (noSend t).rStat = t.rStat := rfl
@[simp] theorem noSend_initialised (t : State) : (noSend t).initialised = t.initialised := rfl
@[simp] theorem noSend_inputs (t : State) : (noSend t).inputs = t.inputs := rfl
@[simp] theorem noSend_cycle (t : State) : (noSend t).cycle = t.cycle := rfl

/-! ### noReceive -/

@[simp] theorem noReceive_prev (t : State) : (noReceive t).prev = t.prev := rfl
@[simp] theorem noReceive_primed (t : State) : (noReceive t).primed = t.primed := rfl
@[simp] theorem noReceive_slot (t : State) : (noReceive t).slot = t.slot := rfl
@[simp] theorem noReceive_full (t : State) : (noReceive t).full = t.full := rfl
@[simp] theorem noReceive_ledN (t : State) : (noReceive t).ledN = t.ledN := rfl
@[simp] theorem noReceive_rxQ (t : State) : (noReceive t).rxQ = t.rxQ := rfl
@[simp] theorem noReceive_sStat (t : State) : (noReceive t).sStat = t.sStat := rfl
@[simp] theorem noReceive_rStat (t : State) : (noReceive t).rStat = rIdle := rfl
@[simp] theorem noReceive_initialised (t : State) : (noReceive t).initialised = t.initialised := rfl
@[simp] theorem noReceive_inputs (t : State) : (noReceive t).inputs = t.inputs := rfl
@[simp] theorem noReceive_cycle (t : State) : (noReceive t).cycle = t.cycle := rfl

/-! ### resetRegisters -/

@[simp] theorem resetRegisters_prev (t : State) : (resetRegisters t).prev = 0#12 := rfl
@[simp] theorem resetRegisters_primed (t : State) : (resetRegisters t).primed = false := rfl
@[simp] theorem resetRegisters_slot (t : State) : (resetRegisters t).slot = 0#12 := rfl
@[simp] theorem resetRegisters_full (t : State) : (resetRegisters t).full = false := rfl
@[simp] theorem resetRegisters_ledN (t : State) : (resetRegisters t).ledN = 0xFF#8 := rfl
@[simp] theorem resetRegisters_rxQ (t : State) : (resetRegisters t).rxQ = 0#12 := rfl
@[simp] theorem resetRegisters_sStat (t : State) : (resetRegisters t).sStat = 0#2 := rfl
@[simp] theorem resetRegisters_rStat (t : State) : (resetRegisters t).rStat = 0#2 := rfl
@[simp] theorem resetRegisters_initialised (t : State) : (resetRegisters t).initialised = true := rfl
@[simp] theorem resetRegisters_inputs (t : State) : (resetRegisters t).inputs = t.inputs := rfl
@[simp] theorem resetRegisters_cycle (t : State) : (resetRegisters t).cycle = t.cycle := rfl

/-! ### nextCycle -/

@[simp] theorem nextCycle_prev (t : State) : (t.nextCycle).prev = t.prev := rfl
@[simp] theorem nextCycle_primed (t : State) : (t.nextCycle).primed = t.primed := rfl
@[simp] theorem nextCycle_slot (t : State) : (t.nextCycle).slot = t.slot := rfl
@[simp] theorem nextCycle_full (t : State) : (t.nextCycle).full = t.full := rfl
@[simp] theorem nextCycle_ledN (t : State) : (t.nextCycle).ledN = t.ledN := rfl
@[simp] theorem nextCycle_rxQ (t : State) : (t.nextCycle).rxQ = t.rxQ := rfl
@[simp] theorem nextCycle_sStat (t : State) : (t.nextCycle).sStat = t.sStat := rfl
@[simp] theorem nextCycle_rStat (t : State) : (t.nextCycle).rStat = t.rStat := rfl
@[simp] theorem nextCycle_initialised (t : State) : (t.nextCycle).initialised = t.initialised := rfl
@[simp] theorem nextCycle_inputs (t : State) : (t.nextCycle).inputs = t.inputs.tail := rfl
@[simp] theorem nextCycle_cycle (t : State) : (t.nextCycle).cycle = t.cycle + 1 := rfl

/-! ### presenting -/

@[simp] theorem presenting_prev (t : State) (w : CycleWord) : (t.presenting w).prev = t.prev := rfl
@[simp] theorem presenting_primed (t : State) (w : CycleWord) : (t.presenting w).primed = t.primed := rfl
@[simp] theorem presenting_slot (t : State) (w : CycleWord) : (t.presenting w).slot = t.slot := rfl
@[simp] theorem presenting_full (t : State) (w : CycleWord) : (t.presenting w).full = t.full := rfl
@[simp] theorem presenting_ledN (t : State) (w : CycleWord) : (t.presenting w).ledN = t.ledN := rfl
@[simp] theorem presenting_rxQ (t : State) (w : CycleWord) : (t.presenting w).rxQ = t.rxQ := rfl
@[simp] theorem presenting_sStat (t : State) (w : CycleWord) : (t.presenting w).sStat = t.sStat := rfl
@[simp] theorem presenting_rStat (t : State) (w : CycleWord) : (t.presenting w).rStat = t.rStat := rfl
@[simp] theorem presenting_initialised (t : State) (w : CycleWord) : (t.presenting w).initialised = t.initialised := rfl
@[simp] theorem presenting_inputs (t : State) (w : CycleWord) : (t.presenting w).inputs = w :: t.inputs.tail := rfl
@[simp] theorem presenting_cycle (t : State) (w : CycleWord) : (t.presenting w).cycle = t.cycle := rfl

end Sys2Proof.Machine
end

