-- ==== Sys2Proof/Laws/Ops.lean ====
section
/-!
SUPPORT. For each shared operation, once, everything it can do: the fields it writes and the fields it leaves, and what
`clocked` and `exec` answer. Proofs cite these instead of unfolding the operations.
-/
namespace Sys2Proof.Machine

/-! ### The codes an attempt reports (R123) -/

@[simp] theorem sendStatus_true : sendStatus true = sFull := rfl
@[simp] theorem sendStatus_false : sendStatus false = sAccepted := rfl
@[simp] theorem receiveStatus_true : receiveStatus true = rDelivered := rfl
@[simp] theorem receiveStatus_false : receiveStatus false = rEmpty := rfl

/-! ### The codes are distinct (R27, R28) -/

@[simp] theorem sIdle_ne_sAccepted : sIdle ≠ sAccepted := by decide
@[simp] theorem sIdle_ne_sFail : sIdle ≠ sFail := by decide
@[simp] theorem sAccepted_ne_sFull : sAccepted ≠ sFull := by decide
@[simp] theorem sAccepted_ne_sFail : sAccepted ≠ sFail := by decide
@[simp] theorem sFull_ne_sAccepted : sFull ≠ sAccepted := by decide
@[simp] theorem sFull_ne_sFail : sFull ≠ sFail := by decide
@[simp] theorem rIdle_ne_rDelivered : rIdle ≠ rDelivered := by decide
@[simp] theorem rIdle_ne_rFail : rIdle ≠ rFail := by decide
@[simp] theorem rDelivered_ne_rEmpty : rDelivered ≠ rEmpty := by decide
@[simp] theorem rDelivered_ne_rFail : rDelivered ≠ rFail := by decide
@[simp] theorem rEmpty_ne_rDelivered : rEmpty ≠ rDelivered := by decide
@[simp] theorem rEmpty_ne_rFail : rEmpty ≠ rFail := by decide

/-! ### Offer (R123) -/

section offer
variable (s t : State) (y : Sample)

theorem offer_of_full (h : s.full = true) : offer s y t = { t with sStat := sFull } := by
  simp [offer, h]

theorem offer_of_empty (h : s.full = false) :
    offer s y t = { t with slot := y, full := true, sStat := sAccepted } := by
  simp [offer, h, slotWrite]

@[simp] theorem offer_prev : (offer s y t).prev = t.prev := by unfold offer; split <;> rfl
@[simp] theorem offer_primed : (offer s y t).primed = t.primed := by unfold offer; split <;> rfl
@[simp] theorem offer_ledN : (offer s y t).ledN = t.ledN := by unfold offer; split <;> rfl
@[simp] theorem offer_rxQ : (offer s y t).rxQ = t.rxQ := by unfold offer; split <;> rfl
@[simp] theorem offer_rStat : (offer s y t).rStat = t.rStat := by unfold offer; split <;> rfl
@[simp] theorem offer_initialised : (offer s y t).initialised = t.initialised := by
  unfold offer; split <;> rfl
@[simp] theorem offer_inputs : (offer s y t).inputs = t.inputs := by unfold offer; split <;> rfl
@[simp] theorem offer_cycle : (offer s y t).cycle = t.cycle := by unfold offer; split <;> rfl
@[simp] theorem offer_slot : (offer s y t).slot = if s.full then t.slot else y := by
  unfold offer; split <;> rfl
@[simp] theorem offer_full : (offer s y t).full = if s.full then t.full else true := by
  unfold offer; split <;> rfl
@[simp] theorem offer_sStat : (offer s y t).sStat = sendStatus s.full := by
  unfold offer; split <;> simp_all

end offer

/-! ### The Sampler step (R106) -/

section samplerStep
variable (s t : State) (raw : Sample)

@[simp] theorem samplerStep_prev :
    (samplerStep s raw t).prev = filteredSample s.primed s.prev raw := by simp [samplerStep]
@[simp] theorem samplerStep_primed : (samplerStep s raw t).primed = true := by simp [samplerStep]
@[simp] theorem samplerStep_slot : (samplerStep s raw t).slot =
    if s.full then t.slot else filteredSample s.primed s.prev raw := by simp [samplerStep]
@[simp] theorem samplerStep_full : (samplerStep s raw t).full = if s.full then t.full else true := by
  simp [samplerStep]
@[simp] theorem samplerStep_sStat : (samplerStep s raw t).sStat = sendStatus s.full := by
  simp [samplerStep]
@[simp] theorem samplerStep_ledN : (samplerStep s raw t).ledN = t.ledN := by simp [samplerStep]
@[simp] theorem samplerStep_rxQ : (samplerStep s raw t).rxQ = t.rxQ := by simp [samplerStep]
@[simp] theorem samplerStep_rStat : (samplerStep s raw t).rStat = t.rStat := by simp [samplerStep]
@[simp] theorem samplerStep_initialised : (samplerStep s raw t).initialised = t.initialised := by
  simp [samplerStep]
@[simp] theorem samplerStep_inputs : (samplerStep s raw t).inputs = t.inputs := by simp [samplerStep]
@[simp] theorem samplerStep_cycle : (samplerStep s raw t).cycle = t.cycle := by simp [samplerStep]

end samplerStep

/-! ### Receive (R123) -/

section receive
variable (s t : State)

theorem receive_of_full (h : s.full = true) :
    receive s t = { t with full := false, rxQ := s.slot, rStat := rDelivered,
                           ledN := renderedPattern s.slot } := by
  rw [receive, if_pos h]; rfl

theorem receive_of_empty (h : s.full = false) : receive s t = { t with rStat := rEmpty } := by
  simp [receive, h]

@[simp] theorem receive_prev : (receive s t).prev = t.prev := by unfold receive; split <;> rfl
@[simp] theorem receive_primed : (receive s t).primed = t.primed := by unfold receive; split <;> rfl
@[simp] theorem receive_slot : (receive s t).slot = t.slot := by unfold receive; split <;> rfl
@[simp] theorem receive_sStat : (receive s t).sStat = t.sStat := by unfold receive; split <;> rfl
@[simp] theorem receive_initialised : (receive s t).initialised = t.initialised := by
  unfold receive; split <;> rfl
@[simp] theorem receive_inputs : (receive s t).inputs = t.inputs := by unfold receive; split <;> rfl
@[simp] theorem receive_cycle : (receive s t).cycle = t.cycle := by unfold receive; split <;> rfl
@[simp] theorem receive_full : (receive s t).full = if s.full then false else t.full := by
  unfold receive; split <;> rfl
@[simp] theorem receive_rxQ : (receive s t).rxQ = if s.full then s.slot else t.rxQ := by
  unfold receive; split <;> rfl
@[simp] theorem receive_ledN :
    (receive s t).ledN = if s.full then renderedPattern s.slot else t.ledN := by
  cases h : s.full
  · rw [receive_of_empty s t h, if_neg Bool.false_ne_true]
  · rw [receive_of_full s t h, if_pos rfl]
@[simp] theorem receive_rStat : (receive s t).rStat = receiveStatus s.full := by
  unfold receive; split <;> simp_all

end receive

/-! ### A clock edge (R232) -/

@[simp] theorem clocked_of_initialised {s : State} (edge : State → State) (h : s.initialised = true) :
    clocked s edge = .next (edge s) := by simp [clocked, h]

@[simp] theorem clocked_of_powerUp {s : State} (edge : State → State) (h : s.initialised = false) :
    clocked s edge = .fault .readBeforeReset := by simp [clocked, h]

theorem clocked_next {s t : State} {edge : State → State} (h : clocked s edge = .next t) :
    s.initialised = true ∧ t = edge s := by
  unfold clocked at h
  split at h
  · exact ⟨‹_›, by cases h; rfl⟩
  · cases h

/-! ### The five operations -/

/-- The registers after the edge of an operation on initialised registers. -/
def edgeOf : Instr → State → State
  | .nop, s => noReceive (noSend s)
  | .push raw, s => noReceive (samplerStep s raw s)
  | .pop, s => receive s (noSend s)
  | .pushpop raw, s => receive s (samplerStep s raw s)
  | .reset, s => resetRegisters s

theorem exec_of_initialised {s : State} (i : Instr) (h : s.initialised = true) :
    exec i s = .next (edgeOf i s) := by
  cases i <;> simp [exec, execNop, execPush, execPop, execPushpop, execReset, edgeOf, h]

/-- Everything exec can do when it answers a next state. -/
theorem exec_next {i : Instr} {s t : State} (h : exec i s = .next t) :
    (i = .reset ∧ t = resetRegisters s) ∨ (s.initialised = true ∧ t = edgeOf i s) := by
  cases i with
  | reset => exact .inl ⟨rfl, by cases h; rfl⟩
  | nop => exact .inr (clocked_next h)
  | push raw => exact .inr (clocked_next h)
  | pop => exact .inr (clocked_next h)
  | pushpop raw => exact .inr (clocked_next h)

@[simp] theorem edgeOf_inputs (i : Instr) (s : State) : (edgeOf i s).inputs = s.inputs := by
  cases i <;> simp [edgeOf]

@[simp] theorem edgeOf_cycle (i : Instr) (s : State) : (edgeOf i s).cycle = s.cycle := by
  cases i <;> simp [edgeOf]

theorem edgeOf_initialised (i : Instr) {s : State} (h : s.initialised = true) :
    (edgeOf i s).initialised = true := by
  cases i <;> simp [edgeOf, h]

/-! ### Runs -/

@[simp] theorem runWords_nil (s : State) : runWords [] s = .next s := rfl

theorem runWords_cons {w : CycleWord} {s t : State} (ws : List CycleWord)
    (h : cycleStep w s = .next t) : runWords (w :: ws) s = runWords ws t := by
  simp [runWords, h]

@[simp] theorem collect_nil {α : Type} (f : CycleWord → State → List α) (s : State) :
    collect f [] s = [] := rfl

theorem collect_cons {α : Type} (f : CycleWord → State → List α) {w : CycleWord} {s t : State}
    (ws : List CycleWord) (h : cycleStep w s = .next t) :
    collect f (w :: ws) s = f w t ++ collect f ws t := by
  simp [collect, h]

theorem cycleStep_of_initialised {s : State} (w : CycleWord) (h : s.initialised = true) :
    cycleStep w s = .next (edgeOf (decode w) s) := exec_of_initialised _ h

end Sys2Proof.Machine
end

