-- ==== Sys2Proof/Laws/PerInstr.lean ====
section
/-!
SUPPORT. Statements made per instruction. EncodeRow: the canonical word of an operation is one of the words of the row of
spec/opcode_table.json that bears its mnemonic.
-/
namespace Sys2Proof.Laws.EncodeRow

/-- The canonical word of i matches the opcode row with i's mnemonic (R72, R75). -/
def Statement (i : Instr) : Prop :=
  ∃ row ∈ opcodeTable, row.mnemonic = i.mnemonic ∧ row.covers (encode i) = true

theorem word_and_mask (control : BitVec 15) (raw : Sample) :
    (control ||| raw.setWidth 15) &&& 0x7000#15 = control &&& 0x7000#15 := by
  ext i hi
  simp only [BitVec.getElem_and, BitVec.getElem_or, BitVec.getElem_setWidth]
  by_cases h : i < 12
  · have : (0x7000#15)[i] = false := by
      revert hi
      interval_cases i <;> decide
    simp [this]
  · simp [BitVec.getLsbD_of_ge raw i (by omega)]

theorem nop : Statement .nop := ⟨opcodeTable[0], by decide, by decide, by decide⟩

theorem push (raw : Sample) : Statement (.push raw) :=
  ⟨opcodeTable[1], by decide, by rfl, by
    show (encode (.push raw) &&& 0x7000#15 == 0x2000#15) = true
    rw [encode, word_and_mask]
    decide⟩

theorem pop : Statement .pop := ⟨opcodeTable[2], by decide, by decide, by decide⟩

theorem pushpop (raw : Sample) : Statement (.pushpop raw) :=
  ⟨opcodeTable[3], by decide, by rfl, by
    show (encode (.pushpop raw) &&& 0x7000#15 == 0x3000#15) = true
    rw [encode, word_and_mask]
    decide⟩

theorem reset : Statement .reset := ⟨opcodeTable[4], by decide, by decide, by decide⟩

end Sys2Proof.Laws.EncodeRow
end

