-- ==== Sys2Proof/Laws/Receive.lean ====
section
/-!
SUPPORT. What one cycle of the wait loop of RECV can do: each branch of waitLoop, for any cycle function, and of recv.
-/
namespace Sys2Proof.Machine

@[simp] theorem addLine_lines {ω σ : Type} (r : Waited ω σ) : r.addLine.lines = r.lines + 1 := rfl
@[simp] theorem addLine_after {ω σ : Type} (r : Waited ω σ) : r.addLine.after = r.after := rfl
@[simp] theorem addLine_rest {ω σ : Type} (r : Waited ω σ) : r.addLine.rest = r.rest := rfl

section waitLoop
variable {ω σ : Type} {cycle : ω → σ → Host.Outcome σ Fault Refusal} {receives : ω → Bool} {full : σ → Bool}
  {w : ω} (ws : List ω) {s t : σ}

@[simp] theorem waitLoop_nil (s : σ) : waitLoop cycle receives full [] s = none := rfl

/-- A receive attempt that starts with full = 1 is the last. -/
theorem waitLoop_delivers (h : cycle w s = .next t) (hr : receives w = true) (hf : full s = true) :
    waitLoop cycle receives full (w :: ws) s = some ⟨1, t, ws⟩ := by simp [waitLoop, h, hr, hf]

/-- A receive attempt that starts with full = 0 counts, and the wait goes on. -/
theorem waitLoop_waits (h : cycle w s = .next t) (hr : receives w = true) (hf : full s = false) :
    waitLoop cycle receives full (w :: ws) s = (waitLoop cycle receives full ws t).map Waited.addLine := by
  simp [waitLoop, h, hr, hf]

/-- A cycle without a receive attempt does not count. -/
theorem waitLoop_other (h : cycle w s = .next t) (hr : receives w = false) :
    waitLoop cycle receives full (w :: ws) s = waitLoop cycle receives full ws t := by simp [waitLoop, h, hr]

/-- Everything a wait of one word and more can do when it ends. -/
theorem waitLoop_some {r : Waited ω σ} (h : waitLoop cycle receives full (w :: ws) s = some r) :
    ∃ t, cycle w s = .next t ∧
      ((receives w = true ∧ full s = true ∧ r = ⟨1, t, ws⟩) ∨
       (receives w = true ∧ full s = false ∧
          ∃ r', waitLoop cycle receives full ws t = some r' ∧ r = r'.addLine) ∨
       (receives w = false ∧ waitLoop cycle receives full ws t = some r)) := by
  cases hc : cycle w s with
  | fault e => simp [waitLoop, hc] at h
  | refused e => simp [waitLoop, hc] at h
  | next t =>
    refine ⟨t, rfl, ?_⟩
    cases hr : receives w
    · exact .inr (.inr ⟨rfl, by rwa [waitLoop_other ws hc hr] at h⟩)
    · cases hf : full s
      · rw [waitLoop_waits ws hc hr hf] at h
        obtain ⟨r', hr', rfl⟩ := Option.map_eq_some_iff.mp h
        exact .inr (.inl ⟨rfl, rfl, r', hr', rfl⟩)
      · rw [waitLoop_delivers ws hc hr hf] at h
        exact .inl ⟨rfl, rfl, (Option.some.inj h).symm⟩

end waitLoop

@[simp] theorem recv_nil (s : State) : recv [] s = none := rfl

/-- A receive attempt of the wait, on registers that hold values. -/
theorem recv_attempt {w : CycleWord} {s : State} (ws : List CycleWord) (h : s.initialised = true)
    (hr : isReceive w = true) :
    recv (w :: ws) s =
      if s.full then some ⟨1, edgeOf (decode w) s, ws⟩
      else (recv ws (edgeOf (decode w) s)).map Waited.addLine := by
  cases hf : s.full
  · exact waitLoop_waits ws (cycleStep_of_initialised w h) hr hf
  · exact waitLoop_delivers ws (cycleStep_of_initialised w h) hr hf

/-- Any other operation during the wait. -/
theorem recv_other {w : CycleWord} {s : State} (ws : List CycleWord) (h : s.initialised = true)
    (hr : isReceive w = false) : recv (w :: ws) s = recv ws (edgeOf (decode w) s) :=
  waitLoop_other ws (cycleStep_of_initialised w h) hr

end Sys2Proof.Machine
end

