-- ==== Sys2Proof/Tests/Slice0.lean ====
section
/-!
SUPPORT. Tests on fixed values, each expected value taken from the spec at the place its comment names, and for every
statement of Certificates/Slice0/Obligations.lean that has hypotheses a concrete state and operands that meet them.
-/
namespace Sys2Proof.Tests

open Sys2Proof.Machine

/-! ## Well-formedness: a term each check refuses, beside a boundary term it takes (R12, R75, R76) -/

theorem test_wf_push_operand : (AsmLine.push 4096).wellFormed = false ∧ (AsmLine.push 4095).wellFormed = true := by decide
theorem test_wf_pushpop_operand : (AsmLine.pushpop 4096).wellFormed = false ∧ (AsmLine.pushpop 0).wellFormed = true := by decide
theorem test_wf_send_operand : (AsmLine.send 5000).wellFormed = false ∧ (AsmLine.send 4095).wellFormed = true := by decide
theorem test_wf_reset_count : (AsmLine.resetTimes 0).wellFormed = false ∧ (AsmLine.resetTimes 1).wellFormed = true := by decide
theorem test_wf_instr_operand : (Instr.push 0xFFF#12).wellFormed = true ∧ rawInRange Params.reference 4096 = false := by decide
theorem test_params_rawW : ¬ ({ Params.reference with rawW := 0 } : Params).Legal := by decide
theorem test_params_betaNum : ¬ ({ Params.reference with betaNum := 0 } : Params).Legal := by decide
theorem test_params_betaDen : ¬ ({ Params.reference with betaNum := 101 } : Params).Legal := by decide
theorem test_params_window : ¬ ({ Params.reference with minAnalog := 3800 } : Params).Legal := by decide
theorem test_params_domain : ¬ ({ Params.reference with maxAnalog := 4096 } : Params).Legal := by decide
theorem test_params_bitWidth : ¬ ({ Params.reference with bitWidth := 0 } : Params).Legal := by decide
theorem test_params_reference : Params.reference.Legal := by decide

/-- The concrete widths of Word.lean are those of the reference parameters (R7, R11, R70). -/
theorem test_widths : Params.reference.rawW = 12 ∧ Params.reference.rawW + 3 = 15 ∧ Params.reference.bitWidth = 8 := by decide

/-! ## Decoding: words written out bit by bit from R70 (R, V, Q, then raw) -/

theorem test_decode_nop : decode 0b000101010111100#15 = .nop := by decide
theorem test_decode_push : decode 0b010001111101000#15 = .push 1000#12 := by decide
theorem test_decode_pop : decode 0b001000000000000#15 = .pop := by decide
theorem test_decode_pushpop : decode 0b011000111110100#15 = .pushpop 500#12 := by decide
theorem test_decode_reset : decode 0b100000000000000#15 = .reset ∧ decode 0b111111111111111#15 = .reset := by decide
theorem test_decode_tooWide : decodeNumber 0x8000 = .error .widerThanCycleWord := by rfl
theorem test_decode_table : decodeTableWord 16 0x2898 = some (.push 2200#12) ∧ decodeTableWord 16 0x8000 = none := by decide

/-! ## The assembler (R75; the programs of 95_test_vectors.md §3) -/

theorem test_assemble_push : assemble ["PUSH 1000      ; 0x23E8".toList] = some [0x23E8#15] := by decide
theorem test_assemble_hex : assemble ["PUSHPOP 0xFFF".toList] = some [0x3FFF#15] := by decide
theorem test_assemble_pseudo : assemble ["RESET 2".toList, "IDLE 1".toList] = some [0x4000#15, 0x4000#15, 0#15] := by decide
theorem test_assemble_refuses : assemble ["PUSH 4096".toList] = none ∧ assemble ["RECV".toList] = none := by decide
/-- Leading zeros are taken and signs refused (log entry 6). -/
theorem test_assemble_numerals : assemble ["PUSH 007".toList, "PUSH 0x00a".toList] = some [0x2007#15, 0x200A#15] ∧
    assemble ["PUSH +5".toList] = none ∧ assemble ["PUSH -0".toList] = none := by decide
theorem test_disassemble : disassemble 0x7FFF#15 = "RESET".toList ∧ disassemble 0x0ABC#15 = "NOP".toList := by decide

/-! ## The datapath (95_test_vectors.md §2.1 to §2.6) -/

theorem test_filt_tie : filt Params.reference true 0 150 = 2 ∧ filt Params.reference true 0 149 = 1 := by decide
theorem test_filt_band : filt Params.reference true 2000 1950 = 2000 ∧ filt Params.reference true 2000 1949 = 1999 := by decide
theorem test_clamp_above : clamp Params.reference 4200 = 3800 ∧ clamp Params.reference (-5) = 600 := by decide
theorem test_scale_tie : scale Params.reference 2200 = 128 ∧ scale Params.reference 2199 = 127 := by decide
theorem test_enc_beyond : enc 8 256 = 0x00#8 ∧ enc 8 85 = 0xAA#8 := by decide
theorem test_rnd_negative : rnd (-3) 2 = -2 ∧ rnd (-1) 2 = -1 ∧ rnd (-255) 3200 = 0 := by decide

/-! ## One cycle of each operation (95_test_vectors.md §2.7) -/

/-- The start states of §2.7. -/
def start (full : Bool) : State :=
  { State.reset with prev := 2000#12, primed := true, slot := 1234#12, full := full, ledN := 0xDF#8,
                     rxQ := 1000#12, sStat := 1#2, rStat := 1#2 }

/-- Some fields of the state after one cycle, none where it stops. -/
def after {α : Type} (w : CycleWord) (s : State) (fields : State → α) : Option α :=
  match cycleStep w s with
  | .next t => some (fields t)
  | .fault _ => none
  | .refused _ => none

/-- An outcome that a decision procedure can see is a next state with property p is one. -/
theorem next_of_decide {o : Host.Outcome State Fault Refusal} {p : State → Prop} [DecidablePred p]
    (h : (match o with | .next t => decide (p t) | .fault _ => false | .refused _ => false) = true) :
    ∃ t, o = .next t ∧ p t := by
  cases o with
  | next t => exact ⟨t, rfl, of_decide_eq_true h⟩
  | fault r => exact absurd h Bool.false_ne_true
  | refused r => exact absurd h Bool.false_ne_true

theorem test_nop_keeps : after 0x0ABC#15 (start true) (fun t => (t.slot, t.full, t.sStat, t.rStat)) =
    some (1234#12, true, 0#2, 0#2) := by decide
theorem test_push_empty : after 0x2800#15 (start false) (fun t => (t.prev, t.slot, t.full, t.sStat)) =
    some (2000#12, 2000#12, true, 1#2) := by decide
theorem test_push_full : after 0x2FFF#15 { start true with prev := 2200#12 } (fun t => (t.prev, t.slot, t.sStat)) =
    some (2219#12, 1234#12, 2#2) := by decide
theorem test_pop_full : after 0x1000#15 (start true) (fun t => (t.rxQ, t.ledN, t.full, t.rStat)) =
    some (1234#12, 0xCC#8, false, 1#2) := by decide
theorem test_pop_empty : after 0x1000#15 (start false) (fun t => (t.rxQ, t.ledN, t.full, t.rStat)) =
    some (1000#12, 0xDF#8, false, 2#2) := by decide
theorem test_pushpop_empty : after 0x3800#15 (start false) (fun t => (t.slot, t.rxQ, t.full, t.sStat, t.rStat)) =
    some (2000#12, 1000#12, true, 1#2, 2#2) := by decide
theorem test_pushpop_full : after 0x3800#15 (start true) (fun t => (t.slot, t.rxQ, t.ledN, t.sStat, t.rStat)) =
    some (1234#12, 1234#12, 0xCC#8, 2#2, 1#2) := by decide
theorem test_reset_ignores : after 0x7FFF#15 (start true) (fun t => (t.prev, t.primed, t.full, t.ledN)) =
    some (0#12, false, false, 0xFF#8) := by decide
/-- §2.9: at power-up a word with R = 0 is a fault of the model, and RESET gives the reset state. -/
theorem test_powerUp : exec .nop State.powerUp = .fault .readBeforeReset ∧ exec .reset State.powerUp = .next State.reset :=
  ⟨rfl, rfl⟩
theorem test_step_fetches : (∃ t, step (State.reset.withFetchWord 16 0x2898) = .next t ∧ t.slot = 2200#12 ∧ t.cycle = 1) :=
  next_of_decide (by decide)

/-! ## A block of other parameters (R5); expected values by hand from R70, R101, R141, R143 and R146 -/

/-- A 4-bit block with β = 1/2, window [2, 12] and 4 indicators. -/
def small : LegalParams :=
  ⟨{ rawW := 4, betaNum := 1, betaDen := 2, minAnalog := 2, maxAnalog := 12, bitWidth := 4 }, by decide⟩

/-- Registers of the small block. -/
def smallStart : Elaborated.Registers small :=
  { prev := 4#4, primed := true, slot := 6#4, full := true, ledN := 0xF#4, rxQ := 0#4, sStat := 0#2, rStat := 0#2 }

/-- The registers of the small block after one cycle, none where it stops. -/
def smallAfter (w : Elaborated.WordOf small) : Option (Elaborated.Registers small) :=
  match Elaborated.cycleStep small w ⟨some smallStart, [], 0⟩ with
  | .next s => s.registers
  | .fault _ => none
  | .refused _ => none

/-- PUSHPOP 7: the filter's tie (7 + 4)/2 rounds up to 6, and (6 − 2)·15/10 = 6 shows as its complement 9. -/
theorem test_small_pushpop : (smallAfter 0b0110111#7).map (fun r =>
    (r.prev.toNat, r.rxQ.toNat, r.ledN.toNat, r.full)) = some (6, 6, 9, false) := by decide +kernel

theorem test_small_assembler : (Elaborated.assemble small ["PUSHPOP 15".toList]).map (List.map BitVec.toNat) = some [63] ∧
    (Elaborated.assemble small ["PUSH 16".toList]).isNone ∧ Elaborated.disassemble small 0b1111111#7 = "RESET".toList := by
  decide

/-! ## Witnesses: the hypotheses of each statement are met -/

theorem test_witness_DecodeGivesBackEncodedOperation :
    (Instr.push 0xFFF#12).wellFormed = true ∧ (Instr.pushpop 0#12).wellFormed = true ∧ Instr.nop.wellFormed = true ∧
      Instr.pop.wellFormed = true ∧ Instr.reset.wellFormed = true := by decide

theorem test_witness_RawFieldIsReadOnlyBySends :
    (0x2000#15).getLsbD 14 = false ∧ (0x2000#15).getLsbD 13 = true ∧
    (0x3FFF#15).getLsbD 14 = false ∧ (0x3FFF#15).getLsbD 13 = true ∧
    0x1000#15 &&& 0x7000#15 = 0x1FFF#15 &&& 0x7000#15 ∧ (0x1000#15).getLsbD 13 = false ∧
    0x7000#15 &&& 0x7000#15 = 0x7FFF#15 &&& 0x7000#15 ∧ (0x7000#15).getLsbD 14 = true := by decide

theorem test_witness_AssemblerRefusesAndNeverTruncates : 4095 ≤ 4095 ∧ 0 ≤ 4095 ∧ 4095 < 4096 := by decide

theorem test_witness_PseudoOperationsExpand :
    1 ≤ 1 ∧ (start true).initialised = true ∧ (start true).full = true ∧ (start false).initialised = true ∧
      (start false).full = false := by decide

/-- From the Channel of §2.7 with full = 1 the first POP of a RECV is its last (R76). -/
theorem test_recv_full : (recv [0x1000#15, 0x2800#15] (start true)).map (fun r => (r.lines, r.after.rxQ, r.rest)) =
    some (1, 1234#12, [0x2800#15]) := by decide +kernel
/-- From full = 0 a send in the second cycle of the wait makes the third POP the last (R58, R76). -/
theorem test_recv_empty : (recv [0x1000#15, 0x3800#15, 0x1000#15] (start false)).map
    (fun r => (r.lines, r.after.rxQ)) = some (3, 2000#12) := by decide +kernel

theorem test_witness_DisassemblerHidesIgnoredBits :
    (0x7FFF#15).getLsbD 14 = true ∧ (0x1FFF#15).getLsbD 14 = false ∧ (0x1FFF#15).getLsbD 13 = false := by decide

theorem test_witness_StepRunsTheDecodedOperation :
    (State.reset.presenting 0x2898#15).inputs = 0x2898#15 :: [] ∧ decode 0x2898#15 = .push 2200#12 ∧
      ∃ i, State.reset.inputs = [] ∧ decode (Config.environmentWord 15 State.reset.cycle) = i :=
  ⟨rfl, by decide, _, rfl, rfl⟩

theorem test_witness_PresentedTableWordRunsNext : decodeTableWord 16 0x31F4 = some (.pushpop 500#12) := by decide

theorem test_witness_CoreRunFollowsSettledInputs :
    ∃ t, runWords [0x2898#15, 0x1000#15] State.reset = .next t ∧ t.rxQ = 2200#12 :=
  next_of_decide (by decide +kernel)

theorem test_witness_CycleRefinesParametricStep :
    State.reset.initialised = true ∧ (start true).initialised = true := by decide

theorem test_witness_NopIdlesBothStatusesOnly :
    0x0ABC#15 &&& 0x7000#15 = 0x0000#15 ∧ (start true).initialised = true := by decide

theorem test_witness_PushFiltersThenOffers :
    0x2FFF#15 &&& 0x7000#15 = 0x2000#15 ∧ (start false).initialised = true ∧ State.reset.primed = false := by decide

theorem test_witness_PopDeliversOrReportsEmpty :
    0x1FFF#15 &&& 0x7000#15 = 0x1000#15 ∧ (start true).initialised = true ∧ (start true).full = true ∧
      (start false).initialised = true ∧ (start false).full = false := by decide

theorem test_witness_PushpopActsOnStartOfCycleFull :
    0x3FFF#15 &&& 0x7000#15 = 0x3000#15 ∧ (start true).initialised = true ∧ (start true).full = true ∧
      (start false).initialised = true ∧ (start false).full = false := by decide

theorem test_witness_ResetGivesTheResetState :
    0x4000#15 &&& 0x4000#15 = 0x4000#15 ∧ 0x7FFF#15 &&& 0x4000#15 = 0x4000#15 := by decide

theorem test_witness_ResetDominatesEveryInput : (0x7FFF#15).getLsbD 14 = true := by decide

theorem test_witness_PowerUpStateHoldsNoValue :
    State.powerUp.initialised = false ∧ Instr.nop ≠ .reset ∧
      ({ State.powerUp with slot := 9#12 } : State).initialised = false ∧
      ({ State.powerUp with slot := 9#12 } : State).inputs = State.powerUp.inputs := by decide

theorem test_witness_RegistersChangeOnlyByTheirWriters :
    (∃ t, exec (.push 1000#12) State.reset = .next t ∧ t.prev ≠ State.reset.prev ∧ t.slot ≠ State.reset.slot ∧
      t.full = true) ∧
    (∃ t, exec .pop (start true) = .next t ∧ t.rxQ ≠ (start true).rxQ ∧ t.full = false) ∧
    (∃ t, exec .reset State.powerUp = .next t ∧ t.initialised ≠ State.powerUp.initialised) :=
  ⟨next_of_decide (by decide), next_of_decide (by decide), next_of_decide (by decide)⟩

theorem test_witness_StatusCodesFollowTheTable : (start true).initialised = true := by decide

theorem test_witness_HandshakeLevelsPredictStatuses :
    (∃ t, cycleStep 0x3800#15 (start true) = .next t ∧ t.outputs ≠ none) ∧ (start true).outputs ≠ none ∧
      (0x3800#15).getLsbD 14 = false ∧ (0x3800#15).getLsbD 13 = true ∧ (0x3800#15).getLsbD 12 = true :=
  ⟨next_of_decide (by decide), by decide⟩

theorem test_witness_StagesShareOnlyTheChannel :
    (∃ t, cycleStep 0x3800#15 (start true) = .next t ∧ t.sStat = sFull) ∧
    (∃ t, cycleStep 0x2800#15 { start true with ledN := 0x12#8 } = .next t ∧ t.sStat = sFull) ∧
    (0x3800#15).getLsbD 13 = (0x2800#15).getLsbD 13 ∧
    (0x3800#15).extractLsb' 0 12 = (0x2800#15).extractLsb' 0 12 ∧
    (∃ t, cycleStep 0x1000#15 { start true with prev := 7#12 } = .next t ∧ t.rStat = rDelivered) ∧
    (0x3800#15).getLsbD 12 = (0x1000#15).getLsbD 12 :=
  ⟨next_of_decide (by decide), next_of_decide (by decide), by decide, by decide, next_of_decide (by decide), by decide⟩

theorem test_witness_EveryStepKeepsSoundness :
    ({ start true with rStat := 0#2 } : State).Sound ∧
      ∃ t, step (({ start true with rStat := 0#2 } : State).presenting 0x3800#15) = .next t ∧ t.full = false :=
  ⟨⟨by decide, by decide, by decide, by decide, by decide, by decide, by decide, by decide⟩, next_of_decide (by decide)⟩

theorem test_witness_ReachableStatesMeetTheInvariants :
    (∃ t, runWords [0x2898#15] State.reset = .next t ∧ t.full = true) ∧
    (∃ t, runWords [0x2898#15, 0x1000#15] State.reset = .next t ∧ t.rxQ ≠ 0#12) :=
  ⟨next_of_decide (by decide), next_of_decide (by decide +kernel)⟩

theorem test_witness_ParametricRegistersFitTheirWidths :
    ({ rst := false, sValid := true, rReq := true, sRaw := 4095 } : Bundle).Fits .reference ∧
      ({ Block.reset .reference with prev := 4095, slot := 4095, full := true } : Block).Fits .reference := by
  constructor <;> simp [Bundle.Fits, Block.Fits, Block.reset, LegalParams.reference, Params.reference]

theorem test_witness_ChannelIsFifo :
    NoReset [0x2898#15, 0x1000#15, 0x2032#15] ∧
    (∃ t, runWords [0x2898#15, 0x1000#15, 0x2032#15] State.reset = .next t ∧ t.full = true) ∧
    (∃ t, cycleStep 0x4000#15 (start true) = .next t ∧ t.full = false) ∧ (0x4000#15).getLsbD 14 = true ∧
    (∃ t, cycleStep 0x2800#15 (start false) = .next t ∧ t.sStat = sAccepted) ∧
    (∃ t, cycleStep 0x2800#15 (start true) = .next t ∧ t.sStat ≠ sAccepted) ∧ isSend 0x2800#15 = true := by
  refine ⟨?_, next_of_decide (by decide +kernel), next_of_decide (by decide), by decide, next_of_decide (by decide),
    next_of_decide (by decide), by decide⟩
  simp [NoReset, fieldR]

theorem test_witness_PendingSampleIsTheLastAccepted :
    NoReset [0x2898#15] ∧ (∃ t, runWords [0x2898#15] State.reset = .next t ∧ t.full = true) ∧
    (start true).full = true ∧ (∃ t, exec (.push 0#12) (start true) = .next t ∧ t.full = true) := by
  refine ⟨?_, next_of_decide (by decide), by decide, next_of_decide (by decide)⟩
  simp [NoReset, fieldR]

theorem test_witness_HeldSampleSurvivesBackpressure :
    (start true).initialised = true ∧ (start true).full = true ∧ (0x2800#15).getLsbD 14 = false ∧
      (0x2800#15).getLsbD 13 = true ∧ (0x2800#15).getLsbD 12 = false ∧
      ∀ w ∈ [0x2800#15, 0x0000#15, 0x2FFF#15], w.getLsbD 14 = false ∧ w.getLsbD 12 = false :=
  ⟨by decide, by decide, by decide, by decide, by decide, by simp⟩

theorem test_witness_SameCycleIsOneInterleaving :
    (start false).initialised = true ∧ (start false).full = false ∧ (start true).initialised = true ∧
      (start true).full = true := by decide

theorem test_witness_WaitingReceiveChangesNothing :
    State.reset.initialised = true ∧ State.reset.full = false ∧ (start true).initialised = true ∧
      (start true).full = true ∧ (recv [0x1000#15] (start true)).isSome = true := by decide +kernel

theorem test_witness_PushedSampleIsPoppableNextCycle :
    State.reset.initialised = true ∧ State.reset.full = false := by decide

theorem test_witness_PoppedChannelAcceptsNextCycle :
    (start true).initialised = true ∧ (start true).full = true := by decide

theorem test_witness_RegistersHoldBetweenTheirEvents :
    (start true).initialised = true ∧ NoReset [0x2800#15, 0x0000#15] ∧ NoReset [0x1000#15] ∧
    (∃ t, runWords [0x2800#15, 0x0000#15] (start true) = .next t ∧ t.full = true) ∧
    (∀ w ∈ [0x2800#15, 0x0000#15], w.getLsbD 12 = false) ∧
    (∃ t, runWords [0x1000#15] (start true) = .next t ∧ t.full = false) ∧
    (∀ w ∈ [0x1000#15], w.getLsbD 13 = false) := by
  exact ⟨by decide, by simp [NoReset, fieldR], by simp [NoReset, fieldR], next_of_decide (by decide), by simp,
    next_of_decide (by decide), by simp⟩

theorem test_witness_StaleSlotIsNeverObserved : (start false).full = false ∧ (start false).initialised = true := by decide

theorem test_witness_UnprimedPrevShowsOnlyOnFiltQ :
    State.reset.primed = false ∧ State.reset.initialised = true ∧ isSend 0x2032#15 = true := by decide

theorem test_witness_RoundingIsNearestWithTiesAway :
    Params.reference.Legal ∧ (0 : Int) ≤ 0 ∧ (0 : Int) < 2 ∧ (0 : Int) ≤ 3 ∧ (-3 : Int) < 0 ∧
      |2 * (2 * rnd (-3) 2) - 2 * (-3)| = (2 : Int) := by decide

theorem test_witness_FilterClosedForms : Params.reference.Legal ∧ (0 : Int) ≤ 4095 ∧ (0 : Int) ≤ 0 := by decide

theorem test_witness_FilterStaysBetweenInputAndState :
    Params.reference.Legal ∧ (0 : Int) ≤ 4095 ∧ (4095 : Int) ≤ 2 ^ Params.reference.rawW - 1 := by decide

theorem test_witness_FilterTiesRoundUp :
    Params.reference.Legal ∧ (50 : Int) = Params.reference.betaNum * 50 +
        (Params.reference.betaDen - Params.reference.betaNum) * 0 ∧ (Params.reference.betaDen : Int) % 2 = 0 ∧
      (50 : Int) % Params.reference.betaDen = Params.reference.betaDen / 2 ∧ ((50 : Int) + 99 * 0) % 100 = 50 := by decide

theorem test_witness_DeadBandIsExact : Params.reference.Legal ∧ (0 : Int) ≤ 1950 ∧ (0 : Int) ≤ 2000 := by decide

theorem test_witness_ConstantInputSettlesInTheDeadBand :
    State.reset.initialised = true ∧ (start true).initialised = true := by decide

theorem test_witness_FilteredSamplesStayInInputRange :
    (∀ r ∈ rawSamples [0x2898#15, 0x2FFF#15] State.reset, 2200 ≤ r.toNat ∧ r.toNat ≤ 4095) ∧
      2219#12 ∈ filteredSamples [0x2898#15, 0x2FFF#15] State.reset := by decide

theorem test_witness_ClampEnforcesBothBounds :
    Params.reference.Legal ∧ (599 : Int) < Params.reference.minAnalog ∧ (3801 : Int) > Params.reference.maxAnalog ∧
      (Params.reference.minAnalog : Int) ≤ 600 ∧ (3800 : Int) ≤ Params.reference.maxAnalog := by decide

theorem test_witness_ScaleFitsTheOutputRange :
    Params.reference.Legal ∧ (Params.reference.minAnalog : Int) ≤ 600 ∧ (3800 : Int) ≤ Params.reference.maxAnalog := by decide

theorem test_witness_ScaleIsMonotoneWithExactEnds :
    Params.reference.Legal ∧ (Params.reference.minAnalog : Int) ≤ 606 ∧ (606 : Int) ≤ 3794 ∧
      (3794 : Int) ≤ Params.reference.maxAnalog := by decide

theorem test_witness_EncoderIsBitwiseComplement : 255 ≤ 2 ^ 8 - 1 ∧ 0 ≤ 2 ^ 1 - 1 ∧ 5 < 8 := by decide

theorem test_witness_EncoderAtAndBeyondItsEnds : 2 ^ 8 - 1 < 256 ∧ 2 ^ 1 - 1 < 2 := by decide

theorem test_witness_RenderedCodeIsMonotone : Params.reference.Legal ∧ (2199 : Int) ≤ 2200 := by decide

theorem test_witness_ElaboratedCycleIsLosslessStep :
    (Elaborated.reset small).registers ≠ none ∧ (Elaborated.powerUp small).registers = none ∧
      (0b1000000#7).getLsbD (small.params.rawW + 2) = true ∧ (0b0111111#7).getLsbD (small.params.rawW + 2) = false := by
  decide

theorem test_witness_StepKeepsFilterStateWithinBounds :
    ((start true).presenting 0x2FFF#15).FilterWithin 2000 4095 ∧
    (∀ r ∈ rawSamples [0x2FFF#15] ((start true).presenting 0x2FFF#15), 2000 ≤ r.toNat ∧ r.toNat ≤ 4095) ∧
    ((start true).presenting 0x2FFF#15).currentWord = 0x2FFF#15 ∧
    ∃ t, step ((start true).presenting 0x2FFF#15) = .next t ∧ t.prev = 2021#12 :=
  ⟨fun _ => by decide, by decide, rfl, next_of_decide (by decide)⟩

theorem test_witness_StepKeepsFifoBalance :
    ((start true).presenting 0x1000#15).FifoBalanced [1000#12, 1234#12] [1000#12] ∧
    ((start true).presenting 0x1000#15).currentWord.getLsbD 14 = false ∧
    ∃ t, step ((start true).presenting 0x1000#15) = .next t ∧ t.rxQ = 1234#12 ∧ t.full = false :=
  ⟨rfl, by decide, next_of_decide (by decide)⟩

theorem test_witness_StepKeepsSampleHistory :
    ((start true).presenting 0x3800#15).HoldsSamplesOf [1000#12, 1234#12] [1000#12, 1234#12] ∧
    ∃ t, step ((start true).presenting 0x3800#15) = .next t ∧ t.rxQ = 1234#12 :=
  ⟨⟨fun _ => by decide, .inr (by decide)⟩, next_of_decide (by decide)⟩

end Sys2Proof.Tests
end

section
/-!
SUPPORT and proofs for 00_scope.md. First the layer of facts: rounding, FILT's bounds, the parametric block of R170, the
words of any width, the bridge from the machine of Step.lean. Then the statements, by tier.
-/
namespace Sys2Proof.Machine

/-! ### Rounding (R14) -/

/-- rnd is odd: ties go away from zero on both sides. -/
theorem rnd_neg (n : Int) {d : Int} (hd : 0 < d) : rnd (-n) d = -rnd n d := by
  rcases lt_trichotomy n 0 with hn | rfl | hn
  · rw [rnd_of_nonneg d (by omega), rnd_of_neg d hn, neg_neg, mul_neg, neg_mul]
  · have hzero : d / (2 * d) = 0 := Int.ediv_eq_zero_of_lt (by omega) (by omega)
    simp [rnd_of_nonneg, hzero]
  · rw [rnd_of_neg d (by omega), rnd_of_nonneg d hn.le, neg_mul_neg]

/-- Twice the error of rnd on a numerator that is not negative: a tie rounds up, so -d is not reached. -/
theorem rnd_error_of_nonneg {n d : Int} (hd : 0 < d) (hn : 0 ≤ n) :
    -d < 2 * (d * rnd n d) - 2 * n ∧ 2 * (d * rnd n d) - 2 * n ≤ d := by
  have hdiv := Int.mul_ediv_add_emod (2 * n + d) (2 * d)
  have hlo := Int.emod_nonneg (2 * n + d) (show 2 * d ≠ 0 by omega)
  have hhi := Int.emod_lt_of_pos (2 * n + d) (show 0 < 2 * d by omega)
  rw [← rnd_of_nonneg d hn, mul_assoc] at hdiv
  constructor <;> omega

/-- An integer at or below N/D is at or below rnd(N, D). -/
theorem le_rnd {n d m : Int} (hd : 0 < d) (hn : 0 ≤ n) (h : d * m ≤ n) : m ≤ rnd n d := by
  rw [rnd_of_nonneg d hn, Int.le_ediv_iff_mul_le (by omega)]
  linarith

/-- An integer at or above N/D is at or above rnd(N, D). -/
theorem rnd_le {n d m : Int} (hd : 0 < d) (hn : 0 ≤ n) (h : n ≤ d * m) : rnd n d ≤ m := by
  rw [rnd_of_nonneg d hn, ← Int.lt_add_one_iff, Int.ediv_lt_iff_lt_mul (by omega)]
  linarith

/-- The rounding error is at most half of d, and at exactly half the result has the larger magnitude. -/
def RoundsNearest (n d q : Int) : Prop :=
  |2 * (d * q) - 2 * n| ≤ d ∧ (|2 * (d * q) - 2 * n| = d → |n| < |d * q|)

theorem RoundsNearest.neg {n d q : Int} (h : RoundsNearest n d q) : RoundsNearest (-n) d (-q) := by
  have herr : 2 * (d * -q) - 2 * -n = -(2 * (d * q) - 2 * n) := by ring
  rw [RoundsNearest, herr, abs_neg, abs_neg, mul_neg, abs_neg]
  exact h

theorem rnd_roundsNearest_of_nonneg {n d : Int} (hd : 0 < d) (hn : 0 ≤ n) : RoundsNearest n d (rnd n d) := by
  obtain ⟨hlo, hhi⟩ := rnd_error_of_nonneg hd hn
  refine ⟨abs_le.mpr ⟨hlo.le, hhi⟩, fun htie => ?_⟩
  have hup : 2 * (d * rnd n d) - 2 * n = d := (eq_or_eq_neg_of_abs_eq htie).resolve_right (by omega)
  rw [abs_of_nonneg hn, abs_of_pos (by omega)]
  omega

theorem rnd_roundsNearest (n : Int) {d : Int} (hd : 0 < d) : RoundsNearest n d (rnd n d) := by
  rcases le_total 0 n with hn | hn
  · exact rnd_roundsNearest_of_nonneg hd hn
  · have hneg := (rnd_roundsNearest_of_nonneg hd (Int.neg_nonneg.mpr hn)).neg
    rwa [rnd_neg n hd, neg_neg, neg_neg] at hneg

/-- The division of Int is the floor of the rational quotient that R14 writes. -/
theorem floor_div_eq_ediv (a : Int) {b : Int} (hb : 0 ≤ b) : ⌊(a : ℚ) / (b : ℚ)⌋ = a / b := by
  rw [Int.floor_div_cast_of_nonneg hb, Int.floor_intCast]

/-! ### The numerators and the bounds of the datapath (R14, R104, R141) -/

theorem legal_betaDen_pos {p : Params} (hp : p.Legal) : (0 : Int) < p.betaDen := by
  obtain ⟨-, hnum, hle, -⟩ := hp
  omega

theorem filt_numerator_nonneg {p : Params} (hp : p.Legal) {prev raw : Int} (hprev : 0 ≤ prev) (hraw : 0 ≤ raw) :
    0 ≤ p.betaNum * raw + (p.betaDen - p.betaNum) * prev := by
  obtain ⟨-, -, hle, -⟩ := hp
  have hweight : (0 : Int) ≤ p.betaDen - p.betaNum := by omega
  positivity

theorem minAnalog_le_clamp {p : Params} (hp : p.Legal) (v : Int) : p.minAnalog ≤ clamp p v := by
  obtain ⟨-, -, -, hlt, -⟩ := hp
  unfold clamp
  split_ifs <;> omega

/-- The largest number of w bits is not negative. -/
theorem two_pow_sub_one_nonneg (w : Nat) : (0 : Int) ≤ 2 ^ w - 1 :=
  Int.sub_nonneg_of_le (one_le_pow₀ (by norm_num))

theorem outputMax_nonneg (p : Params) : 0 ≤ p.outputMax := two_pow_sub_one_nonneg _

/-- FILT stays between any bounds of its input and its state: the numerator is a convex combination (R104). -/
theorem filt_between {p : Params} (hp : p.Legal) (primed : Bool) {prev raw lo hi : Int} (h0 : 0 ≤ lo)
    (hprev : lo ≤ prev ∧ prev ≤ hi) (hraw : lo ≤ raw ∧ raw ≤ hi) :
    lo ≤ filt p primed prev raw ∧ filt p primed prev raw ≤ hi := by
  cases primed with
  | false => exact hraw
  | true =>
    have hpos := legal_betaDen_pos hp
    have hnum := filt_numerator_nonneg hp (h0.trans hprev.1) (h0.trans hraw.1)
    obtain ⟨-, -, hle, -⟩ := hp
    have ha : (0 : Int) ≤ p.betaNum := by omega
    have hb : (0 : Int) ≤ p.betaDen - p.betaNum := by omega
    rw [filt_primed]
    constructor
    · refine le_rnd hpos hnum ?_
      linarith [mul_le_mul_of_nonneg_left hraw.1 ha, mul_le_mul_of_nonneg_left hprev.1 hb]
    · refine rnd_le hpos hnum ?_
      linarith [mul_le_mul_of_nonneg_left hraw.2 ha, mul_le_mul_of_nonneg_left hprev.2 hb]

/-! ### The parametric block (R170): what one cycle writes -/

namespace Block

variable {e : LegalParams}

/-- The sample registers and the pattern fit their widths; nothing is asked of the two codes. -/
def WidthsFit (e : LegalParams) (b : Block) : Prop :=
  (0 ≤ b.prev ∧ b.prev ≤ 2 ^ e.params.rawW - 1) ∧ (0 ≤ b.slot ∧ b.slot ≤ 2 ^ e.params.rawW - 1) ∧
    (0 ≤ b.rxQ ∧ b.rxQ ≤ 2 ^ e.params.rawW - 1) ∧ b.ledN ≤ 2 ^ e.params.bitWidth - 1

theorem fits_iff {b : Block} : b.Fits e ↔ b.WidthsFit e ∧ b.sStat < 3 ∧ b.rStat < 3 := by
  simp only [Fits, WidthsFit, and_assoc]

theorem reset_fits (e : LegalParams) : (Block.reset e).Fits e := by
  have hmax := two_pow_sub_one_nonneg e.params.rawW
  exact ⟨le_rfl, hmax, le_rfl, hmax, le_rfl, hmax, le_rfl, Nat.zero_lt_succ 2, Nat.zero_lt_succ 2⟩

/-- Each register after a cycle without RESET: it keeps its value or takes what its stage writes. -/
theorem step_writes {w : Bundle} (hR : w.rst = false) (b : Block) :
    ((step e w b).prev = b.prev ∨ (step e w b).prev = filt e.params b.primed b.prev w.sRaw) ∧
    ((step e w b).slot = b.slot ∨ (step e w b).slot = filt e.params b.primed b.prev w.sRaw) ∧
    ((step e w b).rxQ = b.rxQ ∨ (step e w b).rxQ = b.slot) ∧
    ((step e w b).ledN = b.ledN ∨ (step e w b).ledN = (render e.params b.slot).toNat) := by
  simp only [step, hR, Bool.false_eq_true, if_false]
  exact ⟨(ite_eq_or_eq ..).symm, (ite_eq_or_eq ..).symm, (ite_eq_or_eq ..).symm, (ite_eq_or_eq ..).symm⟩

theorem step_codes (w : Bundle) (b : Block) : (step e w b).sStat < 3 ∧ (step e w b).rStat < 3 := by
  cases hR : w.rst with
  | true =>
    rw [Elaborated.step_of_rst b hR]
    exact (fits_iff.mp (reset_fits e)).2
  | false =>
    simp only [step, hR, Bool.false_eq_true, if_false]
    constructor <;> split_ifs <;> decide

theorem step_widthsFit {w : Bundle} {b : Block} (hw : w.Fits e) (hb : b.WidthsFit e) :
    (step e w b).WidthsFit e := by
  cases hR : w.rst with
  | true =>
    rw [Elaborated.step_of_rst b hR]
    exact (fits_iff.mp (reset_fits e)).1
  | false =>
    obtain ⟨hprev, hslot, hrx, hled⟩ := hb
    have hfilt := filt_between e.legal b.primed le_rfl hprev hw
    have hrender : (render e.params b.slot).toNat ≤ 2 ^ e.params.bitWidth - 1 := Nat.le_pred_of_lt (BitVec.isLt _)
    obtain ⟨wprev, wslot, wrx, wled⟩ := step_writes (e := e) hR b
    refine ⟨?_, ?_, ?_, ?_⟩
    · rcases wprev with h | h <;> rw [h] <;> assumption
    · rcases wslot with h | h <;> rw [h] <;> assumption
    · rcases wrx with h | h <;> rw [h] <;> assumption
    · rcases wled with h | h <;> rw [h] <;> assumption

/-- A cycle on registers within their widths leaves every register fitting, whatever the codes were. -/
theorem step_fits {w : Bundle} {b : Block} (hw : w.Fits e) (hb : b.WidthsFit e) : (step e w b).Fits e :=
  fits_iff.mpr ⟨step_widthsFit hw hb, step_codes w b⟩

/-- A cycle reads rst, with rst = 0 also s_valid and r_req, and s_raw only when it sends (R71, R231). -/
theorem step_eq_of_read_fields {w v : Bundle} (b : Block) (hR : w.rst = v.rst)
    (hrun : v.rst = false → w.sValid = v.sValid ∧ w.rReq = v.rReq ∧ (v.sValid = true → w.sRaw = v.sRaw)) :
    step e w b = step e v b := by
  cases hv : v.rst with
  | true => rw [Elaborated.step_of_rst b hv, Elaborated.step_of_rst b (hR.trans hv)]
  | false =>
    obtain ⟨hV, hQ, hraw⟩ := hrun hv
    cases hs : v.sValid with
    | true => simp only [step, hR, hV, hQ, hraw hs]
    | false => simp [step, hR, hV, hQ, hs]

end Block

/-! ### Words of any width (R70 to R72) -/

namespace Elaborated

variable {e : LegalParams}

theorem wordOf_toNat {ctl raw : Nat} (hctl : ctl < 8) (hraw : raw < 2 ^ e.params.rawW) :
    (wordOf e ctl raw).toNat = 2 ^ e.params.rawW * ctl + raw := by
  rw [wordOf, BitVec.toNat_ofNat, mul_comm, Nat.mod_eq_of_lt]
  calc 2 ^ e.params.rawW * ctl + raw < 2 ^ e.params.rawW * (ctl + 1) := by rw [mul_add]; omega
    _ ≤ 2 ^ e.params.rawW * 2 ^ 3 := Nat.mul_le_mul_left _ hctl
    _ = 2 ^ (e.params.rawW + 3) := (pow_add ..).symm

/-- Bit RAW_W + i of a word is bit i of its control field. -/
theorem wordOf_getLsbD {ctl raw : Nat} (hctl : ctl < 8) (hraw : raw < 2 ^ e.params.rawW) (i : Nat) :
    (wordOf e ctl raw).getLsbD (e.params.rawW + i) = ctl.testBit i := by
  rw [← BitVec.testBit_toNat, wordOf_toNat hctl hraw, Nat.testBit_two_pow_mul_add _ hraw]
  simp

theorem extractLsb'_raw_toNat (w : WordOf e) :
    (w.extractLsb' 0 e.params.rawW).toNat = w.toNat % 2 ^ e.params.rawW := by
  rw [BitVec.extractLsb'_toNat, Nat.shiftRight_zero]

theorem wordOf_raw {ctl : Nat} (hctl : ctl < 8) (raw : SampleOf e) :
    (wordOf e ctl raw.toNat).extractLsb' 0 e.params.rawW = raw := by
  apply BitVec.eq_of_toNat_eq
  rw [extractLsb'_raw_toNat, wordOf_toNat hctl raw.isLt, Nat.mul_add_mod, Nat.mod_eq_of_lt raw.isLt]

/-- The control bits R, V and Q of a word are those of its control field. -/
theorem wordOf_control {ctl raw : Nat} (hctl : ctl < 8) (hraw : raw < 2 ^ e.params.rawW) :
    (wordOf e ctl raw).getLsbD (e.params.rawW + 2) = ctl.testBit 2 ∧
    (wordOf e ctl raw).getLsbD (e.params.rawW + 1) = ctl.testBit 1 ∧
    (wordOf e ctl raw).getLsbD e.params.rawW = ctl.testBit 0 :=
  ⟨wordOf_getLsbD hctl hraw 2, wordOf_getLsbD hctl hraw 1, wordOf_getLsbD hctl hraw 0⟩

theorem decode_encode (op : Operation e) : decode e (encode e op) = op := by
  have hzero : 0 < 2 ^ e.params.rawW := Nat.two_pow_pos _
  cases op with
  | nop =>
    obtain ⟨hR, hV, hQ⟩ := wordOf_control (ctl := 0) (by decide) hzero
    exact decode_nop hR hV hQ
  | push raw =>
    obtain ⟨hR, hV, hQ⟩ := wordOf_control (ctl := 2) (by decide) raw.isLt
    rw [encode, decode_push hR hV hQ, wordOf_raw (by decide)]
  | pop =>
    obtain ⟨hR, hV, hQ⟩ := wordOf_control (ctl := 1) (by decide) hzero
    exact decode_pop hR hV hQ
  | pushpop raw =>
    obtain ⟨hR, hV, hQ⟩ := wordOf_control (ctl := 3) (by decide) raw.isLt
    rw [encode, decode_pushpop hR hV hQ, wordOf_raw (by decide)]
  | reset =>
    obtain ⟨hR, -, -⟩ := wordOf_control (ctl := 4) (by decide) hzero
    exact decode_of_rst hR

theorem decode_ne_reset {w : WordOf e} (hR : w.getLsbD (e.params.rawW + 2) = false) : decode e w ≠ .reset := by
  simp only [decode, hR, Bool.false_eq_true, if_false]
  split <;> simp

/-! ### The fields of a word as R170 reads them -/

theorem ofWord_sRaw (w : WordOf e) :
    (Bundle.ofWord e w.toNat).sRaw = ((w.extractLsb' 0 e.params.rawW).toNat : Int) := by
  rw [extractLsb'_raw_toNat]
  rfl

/-- A number of w bits lies in the range that R13 gives a port or register of w bits. -/
theorem toNat_fits {w : Nat} (x : BitVec w) : (0 : Int) ≤ x.toNat ∧ (x.toNat : Int) ≤ 2 ^ w - 1 := by
  have hlt : (x.toNat : Int) < 2 ^ w := by exact_mod_cast x.isLt
  omega

theorem ofWord_fits (w : WordOf e) : (Bundle.ofWord e w.toNat).Fits e := by
  rw [Bundle.Fits, ofWord_sRaw]
  exact toNat_fits _

/-- The cycle of the decoded operation is the cycle of the word's own fields: they differ in ignored bits only. -/
theorem step_decode_bundle (w : WordOf e) (b : Block) :
    Block.step e (decode e w).bundle b = Block.step e (Bundle.ofWord e w.toNat) b := by
  cases hR : w.getLsbD (e.params.rawW + 2) with
  | true => rw [decode_of_rst hR, Elaborated.step_of_rst b rfl, Elaborated.step_of_rst b hR]
  | false =>
    cases hV : w.getLsbD (e.params.rawW + 1) <;> cases hQ : w.getLsbD e.params.rawW
    case false.false =>
      rw [decode_nop hR hV hQ]
      exact Block.step_eq_of_read_fields b hR.symm fun _ =>
        ⟨hV.symm, hQ.symm, fun hs => absurd (hV.symm.trans hs) Bool.false_ne_true⟩
    case false.true =>
      rw [decode_pop hR hV hQ]
      exact Block.step_eq_of_read_fields b hR.symm fun _ =>
        ⟨hV.symm, hQ.symm, fun hs => absurd (hV.symm.trans hs) Bool.false_ne_true⟩
    case true.false =>
      rw [decode_push hR hV hQ]
      exact Block.step_eq_of_read_fields b hR.symm fun _ => ⟨hV.symm, hQ.symm, fun _ => (ofWord_sRaw w).symm⟩
    case true.true =>
      rw [decode_pushpop hR hV hQ]
      exact Block.step_eq_of_read_fields b hR.symm fun _ => ⟨hV.symm, hQ.symm, fun _ => (ofWord_sRaw w).symm⟩

/-! ### Registers and the numbers they hold (R13) -/

theorem toBlock_widthsFit (r : Registers e) : r.toBlock.WidthsFit e :=
  ⟨toNat_fits r.prev, toNat_fits r.slot, toNat_fits r.rxQ, Nat.le_pred_of_lt r.ledN.isLt⟩

/-- Storing the numbers of registers gives the registers back. -/
@[simp] theorem toBlock_store (r : Registers e) : Registers.store e r.toBlock = r := by
  simp [Registers.store, Registers.toBlock]

/-- R170's numbers are stored without loss, from any registers and any bundle of the block's widths. -/
theorem store_step_toBlock {w : Bundle} (hw : w.Fits e) (r : Registers e) :
    (Registers.store e (Block.step e w r.toBlock)).toBlock = Block.step e w r.toBlock :=
  store_toBlock (Block.step_fits hw (toBlock_widthsFit r))

theorem cycleStep_of_registers {s : BlockState e} {r : Registers e} (w : WordOf e) (h : s.registers = some r) :
    cycleStep e w s =
      .next { s with registers := some (.store e (Block.step e (Bundle.ofWord e w.toNat) r.toBlock)) } := by
  rw [cycleStep, exec_of_registers _ h, step_decode_bundle]

end Elaborated

/-! ### Power-up and the environment's word, on the machine of Step.lean -/

/-- Before the first RESET every other operation is the model's fault (R232, log entry 3). -/
theorem exec_of_powerUp {i : Instr} {s : State} (h : s.initialised = false) (hi : i ≠ .reset) :
    exec i s = .fault .readBeforeReset := by
  cases i with
  | reset => exact absurd rfl hi
  | nop => rw [exec, execNop, clocked_of_powerUp _ h]
  | push raw => rw [exec, execPush, clocked_of_powerUp _ h]
  | pop => rw [exec, execPop, clocked_of_powerUp _ h]
  | pushpop raw => rw [exec, execPushpop, clocked_of_powerUp _ h]

theorem currentWord_of_settled {s : State} {w : CycleWord} {ws : List CycleWord} (h : s.inputs = w :: ws) :
    s.currentWord = w := by
  simp only [State.currentWord, h]

theorem currentWord_of_free {s : State} (h : s.inputs = []) :
    s.currentWord = Config.environmentWord 15 s.cycle := by
  simp only [State.currentWord, h]

theorem step_of_currentWord {s : State} {i : Instr} (h : decode s.currentWord = i) :
    step s = exec i s.nextCycle := by
  rw [step, h]

theorem step_presenting (s : State) (w : CycleWord) :
    step (s.presenting w) = exec (decode w) { s with inputs := s.inputs.tail, cycle := s.cycle + 1 } := rfl

/-- A table word that decodes is a cycle word, and presenting it puts that word at the ports (R70). -/
theorem presentingTableWord_of_decodes {nbits w : Nat} {i : Instr} (h : decodeTableWord nbits w = some i) :
    ∃ word, decode word = i ∧ ∀ s : State, s.presentingTableWord nbits w = s.presenting word := by
  rcases Nat.lt_or_ge (lowBits nbits w) (2 ^ 15) with hlt | hge
  · have hword := cycleWordOf_of_lt hlt
    refine ⟨.ofNat 15 (lowBits nbits w), ?_, fun s => by rw [State.presentingTableWord, hword]⟩
    simpa only [decodeTableWord, decodeNumber, hword, Option.some.injEq] using h
  · simp [decodeTableWord, decodeNumber, cycleWordOf_of_ge hge] at h

/-! ### The wait loop of two machines in step (R76) -/

/-- A wait with its state carried to another machine. -/
def Waited.mapAfter {ω σ τ : Type} (f : σ → τ) (r : Waited ω σ) : Waited ω τ := ⟨r.lines, f r.after, r.rest⟩

section waitLoop
variable {ω σ τ : Type} {cycle : ω → σ → Host.Outcome σ Fault Refusal} {receives : ω → Bool} {full : σ → Bool}
  {cycle' : ω → τ → Host.Outcome τ Fault Refusal} {full' : τ → Bool} {f : σ → τ}

/-- A cycle that stops ends the wait without a delivery. -/
theorem waitLoop_of_stop {w : ω} (ws : List ω) {s : σ} (h : ∀ t, cycle w s ≠ .next t) :
    waitLoop cycle receives full (w :: ws) s = none := by
  cases hc : cycle w s with
  | next t => exact absurd hc (h t)
  | fault r => simp [waitLoop, hc]
  | refused r => simp [waitLoop, hc]

/-- If each cycle of one machine is the other's carried over by f, and a receive attempt that runs sees the same
occupancy in both, then so is the wait. -/
theorem waitLoop_map (hnext : ∀ w s t, cycle w s = .next t → cycle' w (f s) = .next (f t))
    (hstop : ∀ w s, (∀ t, cycle w s ≠ .next t) → ∀ t, cycle' w (f s) ≠ .next t)
    (hfull : ∀ w s t, receives w = true → cycle w s = .next t → full' (f s) = full s) (ws : List ω) (s : σ) :
    waitLoop cycle' receives full' ws (f s) = (waitLoop cycle receives full ws s).map (.mapAfter f) := by
  induction ws generalizing s with
  | nil => rfl
  | cons w ws ih =>
    by_cases hrun : ∃ t, cycle w s = .next t
    · obtain ⟨t, ht⟩ := hrun
      have ht' := hnext w s t ht
      cases hr : receives w with
      | false => rw [waitLoop_other ws ht' hr, waitLoop_other ws ht hr, ih]
      | true =>
        have hocc := hfull w s t hr ht
        cases hf : full s with
        | false =>
          rw [waitLoop_waits ws ht' hr (hocc.trans hf), waitLoop_waits ws ht hr hf, ih, Option.map_map, Option.map_map]
          rfl
        | true =>
          rw [waitLoop_delivers ws ht' hr (hocc.trans hf), waitLoop_delivers ws ht hr hf]
          rfl
    · have hno : ∀ t, cycle w s ≠ .next t := not_exists.mp hrun
      rw [waitLoop_of_stop ws (hstop w s hno), waitLoop_of_stop ws hno, Option.map_none]

end waitLoop

/-- A receive attempt runs only on registers that hold values (R232). -/
theorem initialised_of_isReceive {w : CycleWord} {s t : State} (hr : isReceive w = true)
    (h : cycleStep w s = .next t) : s.initialised = true := by
  rcases exec_next h with ⟨hreset, -⟩ | ⟨hinit, -⟩
  · have hR : fieldR w = false := by simp_all [isReceive]
    cases hV : fieldV w <;> cases hQ : fieldQ w <;> simp [decode, hR, hV, hQ] at hreset
  · exact hinit

/-! ### The bridge from the machine of Step.lean: storing at the reference widths -/

/-- The filter's result at the reference parameters is stored without loss (R104). -/
theorem filteredSample_toNat (primed : Bool) (prev raw : Sample) :
    ((filteredSample primed prev raw).toNat : Int) =
      filt LegalParams.reference.params primed prev.toNat raw.toNat := by
  obtain ⟨hlo, hhi⟩ := filt_between LegalParams.reference.legal primed le_rfl (Elaborated.toNat_fits prev)
    (Elaborated.toNat_fits raw)
  exact Elaborated.ofInt_toNat hlo hhi

theorem renderedPattern_toNat (v : Sample) :
    (renderedPattern v).toNat = (render LegalParams.reference.params v.toNat).toNat := rfl

namespace Elaborated

/-- The registers of an initialised state, at their widths. -/
def registersOf (s : State) : Registers .reference where
  prev := s.prev
  primed := s.primed
  slot := s.slot
  full := s.full
  ledN := s.ledN
  rxQ := s.rxQ
  sStat := s.sStat
  rStat := s.rStat

theorem ofState_of_initialised {s : State} (h : s.initialised = true) :
    ofState s = ⟨some (registersOf s), s.inputs, s.cycle⟩ := by
  simp only [ofState, h, if_true, registersOf]

@[simp] theorem registersOf_toBlock (s : State) : (registersOf s).toBlock = s.toBlock := rfl

@[simp] theorem bundle_ofInstr_push (raw : Sample) :
    (ofInstr (.push raw)).bundle = ⟨false, true, false, (raw.toNat : Int)⟩ := rfl
@[simp] theorem bundle_ofInstr_pop : (ofInstr .pop).bundle = ⟨false, false, true, 0⟩ := rfl
@[simp] theorem bundle_ofInstr_pushpop (raw : Sample) :
    (ofInstr (.pushpop raw)).bundle = ⟨false, true, true, (raw.toNat : Int)⟩ := rfl

/-- The operations of Ops.lean compute R170's step on the numbers that the registers hold. -/
theorem step_ofInstr_toBlock (i : Instr) (s : State) :
    Block.step .reference (ofInstr i).bundle s.toBlock = (edgeOf i s).toBlock := by
  cases i with
  | reset => rfl
  | nop => rfl
  | push raw =>
    cases hf : s.full <;>
      simp [Block.step, edgeOf, State.toBlock, hf, filteredSample_toNat, sAccepted, sFull, rIdle]
  | pop =>
    cases hf : s.full <;>
      simp [Block.step, edgeOf, State.toBlock, hf, renderedPattern_toNat, sIdle, rDelivered, rEmpty]
  | pushpop raw =>
    cases hf : s.full <;>
      simp [Block.step, edgeOf, State.toBlock, hf, filteredSample_toNat, renderedPattern_toNat, sAccepted, sFull,
        rDelivered, rEmpty]

/-! ### The bridge: words, operations and states -/

theorem decode_reference (w : CycleWord) : decode .reference w = ofInstr (Sys2Proof.decode w) := by
  cases hR : fieldR w with
  | true => rw [Sys2Proof.decode_of_rst hR, decode_of_rst (e := .reference) hR, ofInstr]
  | false =>
    cases hV : fieldV w <;> cases hQ : fieldQ w
    case false.false => rw [Sys2Proof.decode_nop hR hV hQ, decode_nop (e := .reference) hR hV hQ, ofInstr]
    case false.true => rw [Sys2Proof.decode_pop hR hV hQ, decode_pop (e := .reference) hR hV hQ, ofInstr]
    case true.false =>
      rw [Sys2Proof.decode_push hR hV hQ, decode_push (e := .reference) hR hV hQ]
      rfl
    case true.true =>
      rw [Sys2Proof.decode_pushpop hR hV hQ, decode_pushpop (e := .reference) hR hV hQ]
      rfl

/-- A control field above the raw field is the bitwise or that the encoder of Decode.lean writes. -/
theorem wordOf_reference {ctl : Nat} (hctl : ctl < 8) (raw : Sample) :
    wordOf .reference ctl raw.toNat = BitVec.ofNat 15 (2 ^ 12 * ctl) ||| raw.setWidth 15 := by
  have hlt := raw.isLt
  have hsum : (wordOf .reference ctl raw.toNat).toNat = 2 ^ 12 * ctl + raw.toNat := wordOf_toNat hctl hlt
  refine BitVec.eq_of_toNat_eq (n := 15) (hsum.trans ?_)
  rw [BitVec.toNat_or, BitVec.toNat_ofNat, BitVec.toNat_setWidth, Nat.mod_eq_of_lt (by omega),
    Nat.mod_eq_of_lt (by omega)]
  exact Nat.two_pow_add_eq_or_of_lt hlt ctl

theorem encode_ofInstr (i : Instr) : encode .reference (ofInstr i) = Sys2Proof.encode i := by
  cases i with
  | nop => rfl
  | push raw => exact wordOf_reference (ctl := 2) (by decide) raw
  | pop => rfl
  | pushpop raw => exact wordOf_reference (ctl := 3) (by decide) raw
  | reset => rfl

theorem ofInstr_ne_reset {i : Instr} (h : i ≠ .reset) : ofInstr i ≠ .reset := by
  cases i <;> simp_all [ofInstr]

theorem exec_ofState (i : Instr) (s : State) :
    exec .reference (ofInstr i) (ofState s) = ofOutcome (Machine.exec i s) := by
  by_cases hi : i = .reset
  · subst hi
    rfl
  · cases h : s.initialised with
    | false =>
      rw [exec_of_powerUp (ofState_registers_powerUp h) (ofInstr_ne_reset hi), Machine.exec_of_powerUp h hi, ofOutcome]
    | true =>
      rw [exec_of_initialised i h, ofOutcome, ofState_of_initialised h,
        ofState_of_initialised (edgeOf_initialised i h), exec_of_registers _ rfl, registersOf_toBlock,
        step_ofInstr_toBlock, ← registersOf_toBlock, toBlock_store, edgeOf_inputs, edgeOf_cycle]

theorem cycleStep_ofState (w : CycleWord) (s : State) :
    cycleStep .reference w (ofState s) = ofOutcome (Machine.cycleStep w s) :=
  (congrArg (exec .reference · (ofState s)) (decode_reference w)).trans (exec_ofState _ s)

/-- The reference machine answers a next state only where the machine of Step.lean does. -/
theorem exists_next_of_ofOutcome {o : Host.Outcome State Fault Refusal} {t : BlockState .reference}
    (h : ofOutcome o = .next t) : ∃ u, o = .next u := by
  cases o with
  | next u => exact ⟨u, rfl⟩
  | fault r => simp [ofOutcome] at h
  | refused r => simp [ofOutcome] at h

theorem currentWord_ofState (s : State) : (ofState s).currentWord = s.currentWord := by
  cases h : s.inputs with
  | nil =>
    rw [currentWord_of_free h]
    simp only [BlockState.currentWord, ofState_inputs, h, ofState_cycle]
    rfl
  | cons w ws =>
    rw [currentWord_of_settled h]
    simp only [BlockState.currentWord, ofState_inputs, h]
    rfl

theorem step_ofState (s : State) : step .reference (ofState s) = ofOutcome (Machine.step s) := by
  rw [step, currentWord_ofState]
  exact cycleStep_ofState s.currentWord s.nextCycle

theorem outputs_ofState (s : State) : (ofState s).outputs = s.outputs.map ofOutputs := by
  cases h : s.initialised with
  | false => simp [BlockState.outputs, State.outputs, ofState_registers_powerUp h, h]
  | true =>
    simp only [BlockState.outputs, State.outputs, ofState_of_initialised h, h, if_true, Option.map_some]
    rfl

/-! ### The bridge: source text and the wait loop -/

theorem assembleLine_reference : assembleLine .reference = Machine.assembleLine := by
  have hword (op : SourceOp) : encode .reference (operationOf .reference op) = Sys2Proof.encode op.toInstr := by
    rw [← encode_ofInstr]
    cases op <;> rfl
  unfold assembleLine Machine.assembleLine
  simp only [hword]
  rfl

theorem disassemble_reference (w : CycleWord) : disassemble .reference w = Machine.disassemble w := by
  have hsource (i : Instr) : (ofInstr i).sourceOp = Machine.sourceOp i := by cases i <;> rfl
  exact congrArg SourceOp.print ((congrArg Operation.sourceOp (decode_reference w)).trans (hsource _))

theorem full_ofState {s : State} (h : s.initialised = true) : (ofState s).full = s.full := by
  simp [BlockState.full, ofState_of_initialised h, registersOf]

theorem recv_ofState (ws : List CycleWord) (s : State) :
    recv .reference ws (ofState s) = (Machine.recv ws s).map ofWaited := by
  refine waitLoop_map (fun w s t h => ?_) (fun w s hno t h => ?_) (fun w s t hr h => ?_) ws s
  · exact (cycleStep_ofState w s).trans (congrArg ofOutcome h)
  · obtain ⟨u, hu⟩ := exists_next_of_ofOutcome ((cycleStep_ofState w s).symm.trans h)
    exact hno u hu
  · exact full_ofState (initialised_of_isReceive hr h)

end Elaborated

/-! ### Tier 3 -/

/-- Settles O31: the step lemma of the block, on registers whose codes may be any. -/
theorem parametricRegistersFitTheirWidths : Obligations.ParametricRegistersFitTheirWidths :=
  fun e => ⟨Block.reset_fits e, fun _ _ hw hb => Block.step_fits hw (Block.fits_iff.mp hb).1⟩

/-- Settles O56, from the bits of a control field above a raw field. -/
theorem elaboratedDecodeGivesBackEncoded : Obligations.ElaboratedDecodeGivesBackEncoded :=
  fun _ op => Elaborated.decode_encode op

/-! ### Tier 2 -/

/-- Settles O42: the error bound holds for non-negative numerators, and rnd is odd. -/
theorem roundingIsNearestWithTiesAway : Obligations.RoundingIsNearestWithTiesAway := by
  refine ⟨fun p prev raw c hp hprev hraw => ⟨filt_numerator_nonneg hp hprev hraw, ?_⟩, fun n d hd => ?_⟩
  · exact mul_nonneg (sub_nonneg_of_le (minAnalog_le_clamp hp c)) (outputMax_nonneg p)
  · obtain ⟨herr, htie⟩ := rnd_roundsNearest n hd
    have hdd : 0 ≤ 2 * d := by omega
    refine ⟨herr, htie, fun hn => ?_, fun hn => ?_⟩
    · rw [rnd_of_nonneg d hn, floor_div_eq_ediv _ hdd]
    · rw [rnd_of_neg d hn, floor_div_eq_ediv _ hdd]

/-- Settles O55, assembled from the bridge lemmas. -/
theorem machineIsTheReferenceInstance : Obligations.MachineIsTheReferenceInstance :=
  ⟨Elaborated.decode_reference, Elaborated.encode_ofInstr, rfl, rfl, Elaborated.exec_ofState, Elaborated.step_ofState,
    Elaborated.outputs_ofState,
    fun lines => congrArg (fun words => assembleWith words lines) Elaborated.assembleLine_reference,
    Elaborated.disassemble_reference, Elaborated.recv_ofState⟩

/-- Settles O57: what the cycle stores fits its registers, so reading them back gives R170's numbers. -/
theorem elaboratedCycleIsLosslessStep : Obligations.ElaboratedCycleIsLosslessStep := by
  constructor
  · intro e w s r hr
    exact ⟨_, Elaborated.cycleStep_of_registers w hr, Elaborated.store_step_toBlock (Elaborated.ofWord_fits w) r, rfl⟩
  · intro e w s hs
    refine ⟨by rw [Elaborated.BlockState.outputs, hs, Option.map_none], fun hR => ?_, fun hR => ?_⟩
    · exact ⟨_, by rw [Elaborated.cycleStep, Elaborated.decode_of_rst hR, Elaborated.exec_reset],
        Elaborated.store_toBlock (Block.reset_fits e)⟩
    · exact Elaborated.exec_of_powerUp hs (Elaborated.decode_ne_reset hR)

/-! ### Tier 1 -/

/-- Settles O11: the word at the ports is the first settled input, else the environment's free word. -/
theorem stepRunsTheDecodedOperation : Obligations.StepRunsTheDecodedOperation := by
  constructor
  · intro s w ws i hin hi
    rw [step_of_currentWord (by rw [currentWord_of_settled hin, hi]), State.nextCycle, hin, List.tail_cons]
  · intro s i hin hi
    rw [step_of_currentWord (by rw [currentWord_of_free hin, hi]), State.nextCycle, hin, List.tail_nil, ← hin]

/-- Settles O12: a table word that decodes is a cycle word, and the step after presenting it runs it. -/
theorem presentedTableWordRunsNext : Obligations.PresentedTableWordRunsNext := by
  intro nbits w i s h
  obtain ⟨word, rfl, hpresents⟩ := presentingTableWord_of_decodes h
  rw [State.withFetchWord, hpresents, step_presenting]

/-- Elaboration answers a set exactly when it is legal, with the set unchanged (R12). -/
theorem elaborate_eq_some_iff (p : Params) : (∃ e, p.elaborate = some e ∧ e.params = p) ↔ p.Legal := by
  constructor
  · rintro ⟨e, -, rfl⟩
    exact e.legal
  · intro hp
    exact ⟨⟨p, hp⟩, dif_pos hp, rfl⟩

/-- Settles O27: legality is decided once, at elaboration, and the set is not touched. -/
theorem illegalParametersAreRefused : Obligations.IllegalParametersAreRefused :=
  ⟨elaborate_eq_some_iff, fun p => by simp only [Params.elaborate, dite_eq_right_iff, reduceCtorEq, imp_false],
    LegalParams.reference, dif_pos LegalParams.reference.legal⟩

end Sys2Proof.Machine
end

section
/-!
SUPPORT and proofs for 10_state.md. First the layer of facts: the two fields of an operation, each register after an
edge as an equation in them (R21 to R28), the cycle and the step when they answer a next state, and one induction over
runs. Then the three invariants an edge keeps: soundness, the sample history, and agreement of two states on the
registers that have a reader. Then the statements, by tier.
-/
namespace Sys2Proof.Machine

/-! ### The fields of an operation (R72, R100, R126) -/

/-- The sample of the operation's Sampler iteration, if it makes one (R100). -/
def sampleOf : Instr → Option Sample
  | .nop => none
  | .push raw => some raw
  | .pop => none
  | .pushpop raw => some raw
  | .reset => none

/-- The operation makes a receive attempt (R126). -/
def receives : Instr → Bool
  | .nop => false
  | .push _ => false
  | .pop => true
  | .pushpop _ => true
  | .reset => false

theorem sampleOf_eq_some {i : Instr} {raw : Sample} (h : sampleOf i = some raw) :
    i = .push raw ∨ i = .pushpop raw := by
  cases i <;> simp_all [sampleOf]

theorem eq_pop_or_pushpop_of_receives {i : Instr} (h : receives i = true) : i = .pop ∨ ∃ raw, i = .pushpop raw := by
  cases i <;> simp_all [receives]

theorem decode_eq_reset_iff {w : CycleWord} : decode w = .reset ↔ fieldR w = true := by
  refine ⟨fun h => ?_, decode_of_rst⟩
  by_contra hR
  cases hV : fieldV w <;> cases hQ : fieldQ w <;> simp [decode, hR, hV, hQ] at h

theorem decode_ne_reset {w : CycleWord} (hR : fieldR w = false) : decode w ≠ .reset := by
  simp [decode_eq_reset_iff, hR]

/-- Bit V of the word decides whether its operation sends, and its raw field is the sample (R71, R72). -/
theorem sampleOf_decode {w : CycleWord} (hR : fieldR w = false) :
    sampleOf (decode w) = if fieldV w then some (fieldRaw w) else none := by
  cases hV : fieldV w <;> cases hQ : fieldQ w <;> simp [decode, hR, hV, hQ, sampleOf]

/-- Bit Q of the word decides whether its operation receives (R72). -/
theorem receives_decode {w : CycleWord} (hR : fieldR w = false) : receives (decode w) = fieldQ w := by
  cases hV : fieldV w <;> cases hQ : fieldQ w <;> simp [decode, hR, hV, hQ, receives]

theorem isSend_eq_sampleOf_isSome (w : CycleWord) : isSend w = (sampleOf (decode w)).isSome := by
  cases hR : fieldR w with
  | true => simp [isSend, hR, decode_of_rst hR, sampleOf]
  | false => cases hV : fieldV w <;> simp [isSend, hR, hV, sampleOf_decode hR]

/-! ### The conditions a status reports (R123) -/

@[simp] theorem sendStatus_eq_sAccepted_iff {full : Bool} : sendStatus full = sAccepted ↔ full = false := by
  cases full <;> decide
@[simp] theorem sendStatus_eq_sFull_iff {full : Bool} : sendStatus full = sFull ↔ full = true := by
  cases full <;> decide
@[simp] theorem sendStatus_ne_sFail (full : Bool) : sendStatus full ≠ sFail := by cases full <;> decide
@[simp] theorem receiveStatus_eq_rDelivered_iff {full : Bool} : receiveStatus full = rDelivered ↔ full = true := by
  cases full <;> decide
@[simp] theorem receiveStatus_eq_rEmpty_iff {full : Bool} : receiveStatus full = rEmpty ↔ full = false := by
  cases full <;> decide
@[simp] theorem receiveStatus_ne_rFail (full : Bool) : receiveStatus full ≠ rFail := by cases full <;> decide

/-- The handshake ports of an initialised state (R31). -/
theorem outputs_eq_some {s : State} {o : Outputs} (h : s.outputs = some o) :
    o.sReady = !s.full ∧ o.rValid = s.full ∧ o.sStat = s.sStat ∧ o.rStat = s.rStat := by
  unfold State.outputs at h
  split at h
  · cases h
    exact ⟨rfl, rfl, rfl, rfl⟩
  · cases h

/-! ### Each register after an edge without RESET (R21 to R28, R170) -/

section edge
variable {i : Instr} (s : State) (hi : i ≠ .reset)
include hi

theorem edgeOf_prev : (edgeOf i s).prev = (sampleOf i).elim s.prev (filteredSample s.primed s.prev) := by
  cases i <;> simp_all [edgeOf, sampleOf]

theorem edgeOf_primed : (edgeOf i s).primed = ((sampleOf i).isSome || s.primed) := by
  cases i <;> simp_all [edgeOf, sampleOf]

theorem edgeOf_slot : (edgeOf i s).slot =
    if s.full then s.slot else (sampleOf i).elim s.slot (filteredSample s.primed s.prev) := by
  cases i <;> simp_all [edgeOf, sampleOf]

theorem edgeOf_full : (edgeOf i s).full = if s.full then !receives i else (sampleOf i).isSome := by
  cases hf : s.full <;> cases i <;> simp_all [edgeOf, sampleOf, receives]

theorem edgeOf_ledN : (edgeOf i s).ledN = if receives i && s.full then renderedPattern s.slot else s.ledN := by
  cases i <;> simp_all [edgeOf, receives]

theorem edgeOf_rxQ : (edgeOf i s).rxQ = if receives i && s.full then s.slot else s.rxQ := by
  cases i <;> simp_all [edgeOf, receives]

theorem edgeOf_sStat : (edgeOf i s).sStat = if (sampleOf i).isSome then sendStatus s.full else sIdle := by
  cases i <;> simp_all [edgeOf, sampleOf]

theorem edgeOf_rStat : (edgeOf i s).rStat = if receives i then receiveStatus s.full else rIdle := by
  cases i <;> simp_all [edgeOf, receives]

theorem edgeOf_initialised_eq : (edgeOf i s).initialised = s.initialised := by
  cases i <;> simp_all [edgeOf]

/-- Without a send the FilterState holds (R21, R22). -/
theorem edgeOf_filterState_of_no_send (hno : sampleOf i = none) :
    (edgeOf i s).prev = s.prev ∧ (edgeOf i s).primed = s.primed := by
  simp [edgeOf_prev s hi, edgeOf_primed s hi, hno]

/-- Without a pop the received sample and its pattern hold (R25, R26). -/
theorem edgeOf_rendered_of_no_pop (hno : (receives i && s.full) = false) :
    (edgeOf i s).rxQ = s.rxQ ∧ (edgeOf i s).ledN = s.ledN := by
  simp [edgeOf_rxQ s hi, edgeOf_ledN s hi, hno]

/-- Without a push slot holds (R23). -/
theorem edgeOf_slot_of_no_push (hno : s.full = true ∨ sampleOf i = none) : (edgeOf i s).slot = s.slot := by
  rw [edgeOf_slot s hi]
  obtain hfull | hsend := hno
  · exact if_pos hfull
  · rw [hsend, Option.elim_none, ite_self]

/-- Where a pending sample comes from: it was pending already, or this edge filtered and accepted it (R121, R123). -/
theorem pending_after_edge (h : (edgeOf i s).full = true) :
    (s.full = true ∧ (edgeOf i s).slot = s.slot) ∨
    (s.full = false ∧ (sampleOf i).isSome = true ∧ (edgeOf i s).slot = (edgeOf i s).prev ∧
      (edgeOf i s).sStat = sAccepted) := by
  rw [edgeOf_full s hi] at h
  rw [edgeOf_slot s hi, edgeOf_prev s hi, edgeOf_sStat s hi]
  cases hf : s.full with
  | true => exact .inl ⟨rfl, if_pos rfl⟩
  | false =>
    have hsend : (sampleOf i).isSome = true := by simpa [hf] using h
    obtain ⟨raw, hraw⟩ := Option.isSome_iff_exists.mp hsend
    exact .inr ⟨rfl, hsend, by simp [hraw], by simp [hraw]⟩

end edge

theorem samplerStep_nextCycle (s t : State) (raw : Sample) :
    samplerStep s.nextCycle raw t.nextCycle = (samplerStep s raw t).nextCycle := by
  cases hf : s.full with
  | true => simp only [samplerStep, offer_of_full _ _ _ hf, offer_of_full s.nextCycle _ _ hf]; rfl
  | false => simp only [samplerStep, offer_of_empty _ _ _ hf, offer_of_empty s.nextCycle _ _ hf]; rfl

theorem receive_nextCycle (s t : State) : receive s.nextCycle t.nextCycle = (receive s t).nextCycle := by
  cases hf : s.full with
  | true =>
    rw [receive_of_full s t hf, receive_of_full s.nextCycle _ hf]
    simp only [State.nextCycle]
  | false => rw [receive_of_empty s t hf, receive_of_empty s.nextCycle _ hf, State.nextCycle, State.nextCycle]

/-- The environment's part of an edge does not meet the registers' part (R20). -/
theorem edgeOf_nextCycle (i : Instr) (s : State) : edgeOf i s.nextCycle = (edgeOf i s).nextCycle := by
  cases i with
  | nop => rfl
  | push raw => rw [edgeOf, samplerStep_nextCycle, edgeOf]; rfl
  | pop => exact receive_nextCycle s (noSend s)
  | pushpop raw => rw [edgeOf, samplerStep_nextCycle, receive_nextCycle, edgeOf]
  | reset => rfl

/-! ### A cycle, a step and a run that answer a next state -/

theorem exec_next_cases {i : Instr} {s t : State} (h : exec i s = .next t) :
    (i = .reset ∧ t = resetRegisters s) ∨ (i ≠ .reset ∧ s.initialised = true ∧ t = edgeOf i s) := by
  by_cases hi : i = .reset
  · subst hi
    cases h
    exact .inl ⟨rfl, rfl⟩
  · obtain ⟨hreset, -⟩ | hrun := exec_next h
    · exact absurd hreset hi
    · exact .inr ⟨hi, hrun⟩

theorem cycleStep_of_no_reset {w : CycleWord} {s t : State} (hR : fieldR w = false) (h : cycleStep w s = .next t) :
    decode w ≠ .reset ∧ s.initialised = true ∧ t = edgeOf (decode w) s := by
  obtain ⟨hreset, -⟩ | hrun := exec_next_cases h
  · exact absurd hreset (decode_ne_reset hR)
  · exact hrun

/-- A step is the cycle of the word at the ports, and then the environment's next cycle. -/
theorem step_next {s t : State} (h : step s = .next t) :
    ∃ u, cycleStep s.currentWord s = .next u ∧ t = u.nextCycle := by
  obtain ⟨hreset, rfl⟩ | ⟨-, hinit, rfl⟩ := exec_next_cases h
  · exact ⟨resetRegisters s, by rw [cycleStep, hreset]; rfl, rfl⟩
  · exact ⟨_, cycleStep_of_initialised _ hinit, edgeOf_nextCycle _ s⟩

theorem runWords_cons_next {w : CycleWord} {ws : List CycleWord} {s t : State} (h : runWords (w :: ws) s = .next t) :
    ∃ u, cycleStep w s = .next u ∧ runWords ws u = .next t := by
  cases hc : cycleStep w s with
  | next u => exact ⟨u, rfl, by rwa [runWords_cons ws hc] at h⟩
  | fault r => simp [runWords, hc] at h
  | refused r => simp [runWords, hc] at h

/-- What every cycle of the words keeps holds at the end of their run. -/
theorem runWords_keeps {P : State → Prop} {ws : List CycleWord}
    (hkeep : ∀ w ∈ ws, ∀ s t, P s → cycleStep w s = .next t → P t) {s t : State} (hs : P s)
    (h : runWords ws s = .next t) : P t := by
  induction ws generalizing s with
  | nil =>
    cases h
    exact hs
  | cons w ws ih =>
    obtain ⟨u, hu, hrest⟩ := runWords_cons_next h
    have hP := hkeep w List.mem_cons_self s u hs hu
    exact ih (fun v hv => hkeep v (List.mem_cons_of_mem w hv)) hP hrest

/-- What an observer collects along a run is what the first cycle shows and then the rest. -/
theorem collect_cons_eq_append {α : Type} (f : CycleWord → State → List α) {w : CycleWord} {s t : State}
    (ws : List CycleWord) (h : cycleStep w s = .next t) :
    collect f (w :: ws) s = collect f [w] s ++ collect f ws t := by
  rw [collect_cons f ws h, collect_cons f [] h, collect_nil, List.append_nil]

/-! ### Soundness (R38) -/

theorem renderedPattern_zero : renderedPattern 0#12 = 0xFF#8 := by decide

theorem resetRegisters_sound (s : State) : (resetRegisters s).Sound where
  initialised := rfl
  send_code := sIdle_ne_sFail
  receive_code := rIdle_ne_rFail
  accepted_full h := absurd h sIdle_ne_sAccepted
  delivered_empty _ := rfl
  full_primed h := absurd h Bool.false_ne_true
  unprimed_prev _ := rfl
  pattern_rendered := renderedPattern_zero.symm

theorem edgeOf_sound {i : Instr} {s : State} (hi : i ≠ .reset) (hs : s.Sound) : (edgeOf i s).Sound where
  initialised := edgeOf_initialised i hs.initialised
  send_code := by
    rw [edgeOf_sStat s hi]
    split <;> simp
  receive_code := by
    rw [edgeOf_rStat s hi]
    split <;> simp
  accepted_full h := by
    rw [edgeOf_sStat s hi] at h
    split at h
    next hsend => rw [edgeOf_full s hi, sendStatus_eq_sAccepted_iff.mp h, hsend]; rfl
    next => exact absurd h sIdle_ne_sAccepted
  delivered_empty h := by
    rw [edgeOf_rStat s hi] at h
    split at h
    next hrecv => rw [edgeOf_full s hi, receiveStatus_eq_rDelivered_iff.mp h, hrecv]; rfl
    next => exact absurd h rIdle_ne_rDelivered
  full_primed h := by
    rw [edgeOf_primed s hi, Bool.or_eq_true]
    obtain ⟨hfull, -⟩ | ⟨-, hsend, -⟩ := pending_after_edge s hi h
    · exact .inr (hs.full_primed hfull)
    · exact .inl hsend
  unprimed_prev h := by
    rw [edgeOf_primed s hi, Bool.or_eq_false_iff, Option.isSome_eq_false_iff, Option.isNone_iff_eq_none] at h
    obtain ⟨hno, hprimed⟩ := h
    rw [edgeOf_prev s hi, hno]
    exact hs.unprimed_prev hprimed
  pattern_rendered := by
    rw [edgeOf_ledN s hi, edgeOf_rxQ s hi, hs.pattern_rendered]
    exact (apply_ite renderedPattern _ _ _).symm

theorem cycleStep_sound {w : CycleWord} {s t : State} (hs : s.Sound) (h : cycleStep w s = .next t) : t.Sound := by
  obtain ⟨-, rfl⟩ | ⟨hi, -, rfl⟩ := exec_next_cases h
  · exact resetRegisters_sound s
  · exact edgeOf_sound hi hs

/-- Soundness speaks of the registers only, not of the environment. -/
theorem nextCycle_sound {s : State} (hs : s.Sound) : s.nextCycle.Sound :=
  ⟨hs.initialised, hs.send_code, hs.receive_code, hs.accepted_full, hs.delivered_empty, hs.full_primed,
    hs.unprimed_prev, hs.pattern_rendered⟩

/-- The reset state as RESET itself leaves it (R230). -/
theorem reset_sound : State.reset.Sound := resetRegisters_sound State.reset

/-! ### The sample history (R38) -/

theorem mem_filteredSamples_of_send {w : CycleWord} {s t : State} (h : cycleStep w s = .next t) (hw : isSend w = true) :
    t.prev ∈ filteredSamples [w] s := by
  simp [filteredSamples, collect_cons _ [] h, hw]

theorem mem_acceptedSamples_of_accepted {w : CycleWord} {s t : State} (h : cycleStep w s = .next t)
    (ht : t.sStat = sAccepted) : t.slot ∈ acceptedSamples [w] s := by
  simp [acceptedSamples, collect_cons _ [] h, ht]

theorem resetRegisters_holdsSamplesOf (s : State) (filtered accepted : List Sample) :
    (resetRegisters s).HoldsSamplesOf filtered accepted :=
  ⟨fun h => absurd h Bool.false_ne_true, .inl rfl⟩

/-- The history speaks of the registers only, not of the environment. -/
theorem nextCycle_holdsSamplesOf {filtered accepted : List Sample} {s : State}
    (hs : s.HoldsSamplesOf filtered accepted) : s.nextCycle.HoldsSamplesOf filtered accepted := hs

/-- A cycle keeps the history: what is pending afterwards was pending before or is filtered and accepted now, and a pop
moves the pending sample to rx_q. -/
theorem cycleStep_holdsSamplesOf {filtered accepted : List Sample} {w : CycleWord} {s t : State}
    (hs : s.HoldsSamplesOf filtered accepted) (h : cycleStep w s = .next t) :
    t.HoldsSamplesOf (filtered ++ filteredSamples [w] s) (accepted ++ acceptedSamples [w] s) := by
  obtain ⟨-, rfl⟩ | ⟨hi, -, rfl⟩ := exec_next_cases h
  · exact resetRegisters_holdsSamplesOf s _ _
  · obtain ⟨hslot, hrx⟩ := hs
    constructor
    · intro hfull
      obtain ⟨hwas, hkept⟩ | ⟨-, hsend, hnew, hacc⟩ := pending_after_edge s hi hfull
      · obtain ⟨hf, ha⟩ := hslot hwas
        rw [hkept]
        exact ⟨List.mem_append_left _ hf, List.mem_append_left _ ha⟩
      · have hw : isSend w = true := (isSend_eq_sampleOf_isSome w).trans hsend
        refine ⟨List.mem_append_right _ ?_, List.mem_append_right _ (mem_acceptedSamples_of_accepted h hacc)⟩
        rw [hnew]
        exact mem_filteredSamples_of_send h hw
    · rw [edgeOf_rxQ s hi]
      split
      next hpop =>
        obtain ⟨-, hfull⟩ := Bool.and_eq_true_iff.mp hpop
        exact .inr (List.mem_append_left _ (hslot hfull).2)
      next => exact hrx.imp_right (List.mem_append_left _)

/-- The run of any words adds its own samples to the two histories. -/
theorem runWords_holdsSamplesOf {filtered accepted : List Sample} (ws : List CycleWord) {s t : State}
    (hs : s.HoldsSamplesOf filtered accepted) (h : runWords ws s = .next t) :
    t.HoldsSamplesOf (filtered ++ filteredSamples ws s) (accepted ++ acceptedSamples ws s) := by
  induction ws generalizing s filtered accepted with
  | nil =>
    cases h
    simpa [filteredSamples, acceptedSamples] using hs
  | cons w ws ih =>
    obtain ⟨u, hu, hrest⟩ := runWords_cons_next h
    have hend := ih (cycleStep_holdsSamplesOf hs hu) hrest
    simp only [filteredSamples, acceptedSamples] at hend ⊢
    rwa [collect_cons_eq_append _ ws hu, collect_cons_eq_append _ ws hu, ← List.append_assoc, ← List.append_assoc]

/-! ### Two states that agree on the registers that have a reader (R21, R23, R37) -/

/-- The states agree on every register, except that slot may differ while no sample is pending and prev while the filter
is uninitialized: no operation reads them there. -/
structure State.AgreeWhereRead (s u : State) : Prop where
  initialised : s.initialised = u.initialised
  primed : s.primed = u.primed
  full : s.full = u.full
  ledN : s.ledN = u.ledN
  rxQ : s.rxQ = u.rxQ
  sStat : s.sStat = u.sStat
  rStat : s.rStat = u.rStat
  slot : s.full = true → s.slot = u.slot
  prev : s.primed = true → s.prev = u.prev

theorem filteredSample_unprimed (prev prev' raw : Sample) :
    filteredSample false prev raw = filteredSample false prev' raw := by
  simp only [filteredSample, filt_unprimed]

/-- FILT reads prev only when primed = 1 (R101). -/
theorem State.AgreeWhereRead.filteredSample_eq {s u : State} (h : s.AgreeWhereRead u) (raw : Sample) :
    filteredSample s.primed s.prev raw = filteredSample u.primed u.prev raw := by
  rw [← h.primed]
  cases hp : s.primed with
  | false => exact filteredSample_unprimed ..
  | true => rw [h.prev hp]

theorem resetRegisters_agreeWhereRead (s u : State) : (resetRegisters s).AgreeWhereRead (resetRegisters u) :=
  ⟨rfl, rfl, rfl, rfl, rfl, rfl, rfl, fun _ => rfl, fun _ => rfl⟩

/-- A bisimulation: an edge reads nothing on which such states differ, and what it writes agrees. -/
theorem State.AgreeWhereRead.edgeOf {s u : State} (h : s.AgreeWhereRead u) (i : Instr) :
    (edgeOf i s).AgreeWhereRead (edgeOf i u) := by
  by_cases hi : i = .reset
  · subst hi
    exact resetRegisters_agreeWhereRead s u
  have hfilt : filteredSample s.primed s.prev = filteredSample u.primed u.prev := funext h.filteredSample_eq
  constructor
  case initialised => rw [edgeOf_initialised_eq s hi, edgeOf_initialised_eq u hi, h.initialised]
  case primed => rw [edgeOf_primed s hi, edgeOf_primed u hi, h.primed]
  case full => rw [edgeOf_full s hi, edgeOf_full u hi, h.full]
  case sStat => rw [edgeOf_sStat s hi, edgeOf_sStat u hi, h.full]
  case rStat => rw [edgeOf_rStat s hi, edgeOf_rStat u hi, h.full]
  case ledN =>
    rw [edgeOf_ledN s hi, edgeOf_ledN u hi, ← h.full, h.ledN]
    exact ite_congr rfl (fun hpop => by rw [h.slot (Bool.and_eq_true_iff.mp hpop).2]) fun _ => rfl
  case rxQ =>
    rw [edgeOf_rxQ s hi, edgeOf_rxQ u hi, ← h.full, h.rxQ]
    exact ite_congr rfl (fun hpop => h.slot (Bool.and_eq_true_iff.mp hpop).2) fun _ => rfl
  case slot =>
    intro hfull
    rw [edgeOf_full s hi] at hfull
    rw [edgeOf_slot s hi, edgeOf_slot u hi, ← h.full, hfilt]
    cases hf : s.full with
    | true => exact h.slot hf
    | false =>
      obtain ⟨raw, hraw⟩ := Option.isSome_iff_exists.mp (show (sampleOf i).isSome = true by simpa [hf] using hfull)
      rw [hraw]
      rfl
  case prev =>
    intro hprimed
    rw [edgeOf_primed s hi] at hprimed
    rw [edgeOf_prev s hi, edgeOf_prev u hi, hfilt]
    cases hsend : sampleOf i with
    | some raw => rfl
    | none => exact h.prev (by simpa [hsend] using hprimed)

/-- Such states differ on filt_q at most. -/
theorem State.AgreeWhereRead.outputs_masked {s u : State} (h : s.AgreeWhereRead u) :
    s.outputs.map (fun o => { o with filtQ := 0#12 }) = u.outputs.map (fun o => { o with filtQ := 0#12 }) := by
  simp only [State.outputs, State.sReady, State.rValid, h.initialised, h.full, h.sStat, h.rStat, h.rxQ, h.ledN,
    h.primed]
  split <;> rfl

theorem State.AgreeWhereRead.outputs_eq {s u : State} (h : s.AgreeWhereRead u) (hprev : s.prev = u.prev) :
    s.outputs = u.outputs := by
  simp only [State.outputs, State.sReady, State.rValid, h.initialised, h.full, h.sStat, h.rStat, h.rxQ, h.ledN,
    h.primed, hprev]

/-- Equal values of prev stay equal: the filter's results agree. -/
theorem State.AgreeWhereRead.edgeOf_prev_eq {s u : State} (h : s.AgreeWhereRead u) (hprev : s.prev = u.prev)
    (i : Instr) : (Machine.edgeOf i s).prev = (Machine.edgeOf i u).prev := by
  by_cases hi : i = .reset
  · subst hi
    rfl
  · rw [edgeOf_prev s hi, edgeOf_prev u hi, hprev, h.primed]

/-- After a send both filters are initialized, so prev agrees too (R106). -/
theorem State.AgreeWhereRead.prev_eq_after_send {s u : State} (h : s.AgreeWhereRead u) {i : Instr}
    (hsend : (sampleOf i).isSome = true) : (Machine.edgeOf i s).prev = (Machine.edgeOf i u).prev := by
  have hi : i ≠ .reset := by
    rintro rfl
    cases hsend
  exact (h.edgeOf i).prev (by rw [edgeOf_primed s hi, hsend, Bool.true_or])

/-! ### What is seen of two runs of the same words -/

/-- The outputs of a run as a view shows them: those after the first edge, and then the rest; none where the first cycle
faults. -/
theorem map_outputTrace_cons {α : Type} (view : Option Outputs → α) (w : CycleWord) (ws : List CycleWord)
    (s : State) :
    (outputTrace (w :: ws) s).map view =
      if s.initialised = true ∨ decode w = .reset then
        view (edgeOf (decode w) s).outputs :: (outputTrace ws (edgeOf (decode w) s)).map view
      else [] := by
  split
  next hrun =>
    have hnext : cycleStep w s = .next (edgeOf (decode w) s) := by
      obtain hinit | hreset := hrun
      · exact cycleStep_of_initialised w hinit
      · rw [cycleStep, hreset]
        rfl
    simp [outputTrace, collect_cons _ ws hnext]
  next hstop =>
    obtain ⟨hinit, hi⟩ := not_or.mp hstop
    have hfault : cycleStep w s = .fault .readBeforeReset := exec_of_powerUp (Bool.not_eq_true _ ▸ hinit) hi
    simp [outputTrace, collect, hfault]

/-- Two runs look the same under a view when a relation that every edge keeps makes the states look the same. -/
theorem map_outputTrace_eq {α : Type} (view : Option Outputs → α) {R : State → State → Prop}
    (hinit : ∀ s u, R s u → s.initialised = u.initialised)
    (hedge : ∀ i s u, R s u → R (edgeOf i s) (edgeOf i u))
    (hview : ∀ s u, R s u → view s.outputs = view u.outputs) (ws : List CycleWord) {s u : State} (h : R s u) :
    (outputTrace ws s).map view = (outputTrace ws u).map view := by
  induction ws generalizing s u with
  | nil => rfl
  | cons w ws ih =>
    have hnext := hedge (decode w) s u h
    rw [map_outputTrace_cons, map_outputTrace_cons, hinit s u h, hview _ _ hnext, ih hnext]

theorem outputTrace_eq_of_agreeWhereRead (ws : List CycleWord) {s u : State} (h : s.AgreeWhereRead u)
    (hprev : s.prev = u.prev) : outputTrace ws s = outputTrace ws u := by
  have hsame := map_outputTrace_eq id (R := fun s u => s.AgreeWhereRead u ∧ s.prev = u.prev)
    (fun _ _ ⟨hagree, _⟩ => hagree.initialised)
    (fun i _ _ ⟨hagree, heq⟩ => ⟨hagree.edgeOf i, hagree.edgeOf_prev_eq heq i⟩)
    (fun _ _ ⟨hagree, heq⟩ => hagree.outputs_eq heq) ws ⟨h, hprev⟩
  simpa using hsame

theorem agreeWhereRead_of_stale_slot {s : State} (stale : Sample) (hempty : s.full = false) :
    ({ s with slot := stale } : State).AgreeWhereRead s :=
  ⟨rfl, rfl, rfl, rfl, rfl, rfl, rfl, fun hfull => absurd hfull (ne_true_of_eq_false hempty), fun _ => rfl⟩

theorem agreeWhereRead_of_unprimed_prev {s : State} (other : Sample) (hunprimed : s.primed = false) :
    ({ s with prev := other } : State).AgreeWhereRead s :=
  ⟨rfl, rfl, rfl, rfl, rfl, rfl, rfl, fun _ => rfl, fun hprimed => absurd hprimed (ne_true_of_eq_false hunprimed)⟩

/-! ### Tier 3 -/

/-- Settles O29: the step is a cycle, which keeps soundness by the equations of its edge, and then a change of the
environment only. -/
theorem everyStepKeepsSoundness : Obligations.EveryStepKeepsSoundness := by
  intro s t hs h
  obtain ⟨u, hu, rfl⟩ := step_next h
  exact nextCycle_sound (cycleStep_sound hs hu)

/-- Settles O60: the step is a cycle, which keeps the history, and then a change of the environment only. -/
theorem stepKeepsSampleHistory : Obligations.StepKeepsSampleHistory := by
  refine ⟨resetRegisters_holdsSamplesOf State.reset [] [], fun filtered accepted s t hs h => ?_⟩
  obtain ⟨u, hu, rfl⟩ := step_next h
  exact nextCycle_holdsSamplesOf (cycleStep_holdsSamplesOf hs hu)

/-! ### Tier 2 -/

/-- Settles O23: a RESET writes everything, and without one each register's equation names its writers. -/
theorem registersChangeOnlyByTheirWriters : Obligations.RegistersChangeOnlyByTheirWriters := by
  intro i s t h
  obtain ⟨rfl, rfl⟩ | ⟨hi, hinit, rfl⟩ := exec_next_cases h
  · simp
  have hsender : sampleOf i ≠ none → ∃ raw, i = .push raw ∨ i = .pushpop raw := fun hsend =>
    (Option.ne_none_iff_exists'.mp hsend).imp fun _ => sampleOf_eq_some
  refine ⟨fun hchange => .inr (hsender fun hno => ?_), fun hchange => .inr ?_, fun hchange => .inr ?_,
    fun hrise hempty => hsender fun hno => ?_, fun hfall hfull => .inr (eq_pop_or_pushpop_of_receives ?_),
    absurd (edgeOf_initialised_eq s hi), edgeOf_inputs i s, edgeOf_cycle i s⟩
  · obtain ⟨hprev, hprimed⟩ := edgeOf_filterState_of_no_send s hi hno
    exact hchange.elim (absurd hprev) (absurd hprimed)
  · have hpush := mt (edgeOf_slot_of_no_push s hi) hchange
    obtain ⟨hempty, hsend⟩ := not_or.mp hpush
    exact ⟨eq_false_of_ne_true hempty, hsender hsend⟩
  · have hpop : (receives i && s.full) = true := by
      by_contra hno
      obtain ⟨hrx, hled⟩ := edgeOf_rendered_of_no_pop s hi (eq_false_of_ne_true hno)
      exact hchange.elim (absurd hrx) (absurd hled)
    obtain ⟨hrecv, hfull⟩ := Bool.and_eq_true_iff.mp hpop
    exact ⟨hfull, eq_pop_or_pushpop_of_receives hrecv⟩
  · simp [edgeOf_full s hi, hempty, hno] at hrise
  · simpa [edgeOf_full s hi, hfull] using hfall

/-- Settles O25: each status is judged on the start-of-cycle full, which the levels show. -/
theorem handshakeLevelsPredictStatuses : Obligations.HandshakeLevelsPredictStatuses := by
  intro w s t o u ho h hu hR
  obtain ⟨hi, -, rfl⟩ := cycleStep_of_no_reset hR h
  obtain ⟨hready, hvalid, -, -⟩ := outputs_eq_some ho
  obtain ⟨-, -, hsStat, hrStat⟩ := outputs_eq_some hu
  rw [edgeOf_sStat s hi, sampleOf_decode hR] at hsStat
  rw [edgeOf_rStat s hi, receives_decode hR] at hrStat
  refine ⟨fun hV => ?_, fun hQ => ?_, by rw [hready, hvalid]⟩
  · have hsend : u.sStat = sendStatus s.full := by simpa [show fieldV w = true from hV] using hsStat
    simp [hready, hsend]
  · have hrecv : u.rStat = receiveStatus s.full := by simpa [show fieldQ w = true from hQ] using hrStat
    simp [hvalid, hrecv]

/-- Settles O30: the run keeps soundness and adds its samples to the histories, which are empty at reset. -/
theorem reachableStatesMeetTheInvariants : Obligations.ReachableStatesMeetTheInvariants := by
  intro ws t h
  have hsound : t.Sound := runWords_keeps (fun _ _ _ _ => cycleStep_sound) reset_sound h
  obtain ⟨hslot, hrx⟩ := runWords_holdsSamplesOf ws (resetRegisters_holdsSamplesOf State.reset [] []) h
  exact ⟨Nat.le_pred_of_lt t.prev.isLt, Nat.le_pred_of_lt t.slot.isLt, Nat.le_pred_of_lt t.rxQ.isLt,
    fun hfull => (hslot hfull).1, hrx, hsound.send_code, hsound.receive_code⟩

/-- Settles O39: the equations of the registers, with no receive or no send, at each cycle of the run. -/
theorem registersHoldBetweenTheirEvents : Obligations.RegistersHoldBetweenTheirEvents := by
  intro ws s t _ hno h
  constructor
  · intro hQ
    refine runWords_keeps (P := fun x => x.ledN = s.ledN ∧ x.rxQ = s.rxQ) ?_ ⟨rfl, rfl⟩ h
    rintro w hw x y ⟨hled, hrx⟩ hy
    obtain ⟨hi, -, rfl⟩ := cycleStep_of_no_reset (hno w hw) hy
    have hrecv : receives (decode w) = false := (receives_decode (hno w hw)).trans (hQ w hw)
    obtain ⟨hrx', hled'⟩ := edgeOf_rendered_of_no_pop x hi (by rw [hrecv, Bool.false_and])
    exact ⟨hled'.trans hled, hrx'.trans hrx⟩
  · intro hV
    refine runWords_keeps (P := fun x => x.prev = s.prev ∧ x.primed = s.primed) ?_ ⟨rfl, rfl⟩ h
    rintro w hw x y ⟨hprev, hprimed⟩ hy
    obtain ⟨hi, -, rfl⟩ := cycleStep_of_no_reset (hno w hw) hy
    have hsend : sampleOf (decode w) = none := by
      rw [sampleOf_decode (hno w hw), if_neg (Bool.not_eq_true _ ▸ hV w hw)]
    obtain ⟨hprev', hprimed'⟩ := edgeOf_filterState_of_no_send x hi hsend
    exact ⟨hprev'.trans hprev, hprimed'.trans hprimed⟩

/-- Settles O40: the two states agree where they are read, and on prev. -/
theorem staleSlotIsNeverObserved : Obligations.StaleSlotIsNeverObserved := by
  intro ws s stale hempty
  have hagree := agreeWhereRead_of_stale_slot stale hempty
  exact ⟨hagree.outputs_eq rfl, outputTrace_eq_of_agreeWhereRead ws hagree rfl⟩

/-- Settles O41: the two states agree where they are read, and after a send on prev too. -/
theorem unprimedPrevShowsOnlyOnFiltQ : Obligations.UnprimedPrevShowsOnlyOnFiltQ := by
  intro ws s other hunprimed
  have hagree := agreeWhereRead_of_unprimed_prev other hunprimed
  constructor
  · exact map_outputTrace_eq _ (fun _ _ h => h.initialised) (fun i _ _ h => h.edgeOf i) (fun _ _ h => h.outputs_masked)
      ws hagree
  · intro w hw
    have hnext := hagree.edgeOf (decode w)
    have hprev := hagree.prev_eq_after_send ((isSend_eq_sampleOf_isSome w).symm.trans hw)
    have hcons := map_outputTrace_cons id w ws
    simp only [List.map_id, id_eq] at hcons
    rw [hcons, hcons, hagree.initialised, hnext.outputs_eq hprev, outputTrace_eq_of_agreeWhereRead ws hnext hprev]

/-! ### Tier 1 -/

/-- Settles O28: the reset state is what RESET answers, and SCALE of a clamped 0 lights no indicator. -/
theorem resetStateIsSound : Obligations.ResetStateIsSound := reset_sound

end Sys2Proof.Machine
end

section
/-!
SUPPORT and proofs for 20_memory.md. First the layer of facts: what an edge accepts and delivers, the balance of the
Channel over a cycle and over a run, the words and lines of the assembler, and one cycle of the wait of RECV, in R76's
wording and in the loop's. Then the statements, by tier.
-/
namespace Sys2Proof.Machine

/-! ### What an edge accepts and delivers (R121 to R123) -/

section edge
variable {i : Instr} (s : State) (hi : i ≠ .reset)
include hi

theorem edgeOf_accepts_iff : (edgeOf i s).sStat = sAccepted ↔ s.full = false ∧ (sampleOf i).isSome = true := by
  rw [edgeOf_sStat s hi]
  split
  next hsend => rw [sendStatus_eq_sAccepted_iff, and_iff_left hsend]
  next hno => exact iff_of_false sIdle_ne_sAccepted fun hacc => hno hacc.2

theorem edgeOf_delivers_iff : (edgeOf i s).rStat = rDelivered ↔ s.full = true ∧ receives i = true := by
  rw [edgeOf_rStat s hi]
  split
  next hrecv => rw [receiveStatus_eq_rDelivered_iff, and_iff_left hrecv]
  next hno => exact iff_of_false rIdle_ne_rDelivered fun hdel => hno hdel.2

/-- The Channel's balance over one edge: what was pending and what is accepted is what is delivered and what stays
pending (R57). From a full Channel nothing is accepted; from an empty one nothing is delivered. -/
theorem pending_append_accepted :
    s.pending ++ (if (edgeOf i s).sStat = sAccepted then [(edgeOf i s).slot] else []) =
      (if (edgeOf i s).rStat = rDelivered then [(edgeOf i s).rxQ] else []) ++ (edgeOf i s).pending := by
  simp only [edgeOf_accepts_iff s hi, edgeOf_delivers_iff s hi, State.pending, edgeOf_full s hi]
  cases hf : s.full with
  | true =>
    have hslot : (edgeOf i s).slot = s.slot := edgeOf_slot_of_no_push s hi (.inl hf)
    cases hrecv : receives i with
    | true => simp [edgeOf_rxQ s hi, hf, hrecv]
    | false => simp [hslot]
  | false => simp

end edge

/-! ### The balance of the Channel over a cycle and over a run (R57) -/

/-- A cycle without RESET keeps the balance, its accepted and its delivered values added. -/
theorem cycleStep_fifoBalanced {accepted delivered : List Sample} {w : CycleWord} {s t : State}
    (hs : s.FifoBalanced accepted delivered) (hR : fieldR w = false) (h : cycleStep w s = .next t) :
    t.FifoBalanced (accepted ++ acceptedSamples [w] s) (delivered ++ deliveredSamples [w] s) := by
  obtain ⟨hi, -, rfl⟩ := cycleStep_of_no_reset hR h
  have hedge := pending_append_accepted s hi
  simp only [State.FifoBalanced, acceptedSamples, deliveredSamples, collect_cons _ [] h, collect_nil,
    List.append_nil] at hs ⊢
  rw [hs, List.append_assoc, hedge, List.append_assoc]

/-- The balance speaks of the registers only, not of the environment. -/
theorem nextCycle_fifoBalanced {accepted delivered : List Sample} {s : State}
    (hs : s.FifoBalanced accepted delivered) : s.nextCycle.FifoBalanced accepted delivered := hs

/-- A run without RESET keeps the balance, its accepted and its delivered values added. -/
theorem runWords_fifoBalanced {accepted delivered : List Sample} {ws : List CycleWord} {s t : State}
    (hs : s.FifoBalanced accepted delivered) (hno : NoReset ws) (h : runWords ws s = .next t) :
    t.FifoBalanced (accepted ++ acceptedSamples ws s) (delivered ++ deliveredSamples ws s) := by
  induction ws generalizing s accepted delivered with
  | nil =>
    cases h
    simpa [acceptedSamples, deliveredSamples] using hs
  | cons w ws ih =>
    obtain ⟨hR, hrest⟩ := List.forall_mem_cons.mp hno
    obtain ⟨u, hu, hrun⟩ := runWords_cons_next h
    have hend := ih (cycleStep_fifoBalanced hs hR hu) hrest hrun
    simp only [acceptedSamples, deliveredSamples] at hend ⊢
    rwa [collect_cons_eq_append _ ws hu, collect_cons_eq_append _ ws hu, ← List.append_assoc, ← List.append_assoc]

theorem reset_fifoBalanced : State.reset.FifoBalanced [] [] := rfl

/-- R57 for the runs from RESET, whose histories start empty. -/
theorem run_from_reset_fifoBalanced {ws : List CycleWord} {t : State} (hno : NoReset ws)
    (h : runWords ws State.reset = .next t) :
    acceptedSamples ws State.reset = deliveredSamples ws State.reset ++ t.pending :=
  runWords_fifoBalanced reset_fifoBalanced hno h

theorem pending_of_full {s : State} (h : s.full = true) : s.pending = [s.slot] := if_pos h

theorem pending_of_empty {s : State} (h : s.full = false) : s.pending = [] := if_neg (ne_true_of_eq_false h)

theorem pending_length_le_capacity (s : State) : s.pending.length ≤ capacity := by
  cases h : s.full with
  | true => rw [pending_of_full h]; exact le_rfl
  | false => rw [pending_of_empty h]; exact Nat.zero_le _

/-- Once registers hold values, every cycle leaves them so (R232). -/
theorem cycleStep_initialised {w : CycleWord} {s t : State} (hs : s.initialised = true) (h : cycleStep w s = .next t) :
    t.initialised = true := by
  rw [cycleStep_of_initialised w hs] at h
  cases h
  exact edgeOf_initialised _ hs

/-! ### A push and the pop after it (R58, R122) -/

/-- A POP on a full Channel takes the pending sample to rx_q (R122, R173). -/
theorem exec_pop_of_full {s : State} (hs : s.initialised = true) (hf : s.full = true) :
    ∃ u, exec .pop s = .next u ∧ u.rxQ = s.slot ∧ u.rStat = rDelivered :=
  ⟨_, exec_of_initialised .pop hs, by simp [edgeOf, hf], by simp [edgeOf, hf]⟩

/-- A send on an empty Channel, alone or with a receive attempt, leaves its filtered sample pending (R58, R106). -/
theorem edgeOf_send_of_empty {i : Instr} {s : State} {raw : Sample} (hsend : sampleOf i = some raw)
    (hf : s.full = false) :
    (edgeOf i s).full = true ∧ (edgeOf i s).slot = filteredSample s.primed s.prev raw ∧
      (edgeOf i s).sStat = sAccepted := by
  have hi : i ≠ .reset := by
    rintro rfl
    cases hsend
  simp [edgeOf_full s hi, edgeOf_slot s hi, edgeOf_sStat s hi, hf, hsend]

/-! ### Operations and their words (R72, R75, R126) -/

theorem ofInstr_injective : Function.Injective Elaborated.ofInstr := by
  intro i j h
  cases i <;> cases j <;> cases h <;> rfl

/-- The round trip of the machine of any parameters, carried over to the reference machine. -/
theorem decode_encode (i : Instr) : decode (encode i) = i :=
  ofInstr_injective (by rw [← Elaborated.decode_reference, ← Elaborated.encode_ofInstr, Elaborated.decode_encode])

theorem isReceive_eq_receives (w : CycleWord) : isReceive w = receives (decode w) := by
  cases hR : fieldR w with
  | true => simp [isReceive, hR, decode_of_rst hR, receives]
  | false => simp [isReceive, hR, receives_decode hR]

theorem isReceive_encode (i : Instr) : isReceive (encode i) = receives i := by
  rw [isReceive_eq_receives, decode_encode]

/-! ### Source lines (R75, R76) -/

theorem assembleLine_of_wellFormed {l : AsmLine} {ops : List SourceOp} (hl : l.wellFormed = true)
    (hops : expandLine l = some ops) : assembleLine l = some (ops.map fun op => encode op.toInstr) :=
  (if_pos hl).trans (by rw [hops, Option.map_some])

theorem assembleLine_of_illFormed {l : AsmLine} (hl : l.wellFormed = false) : assembleLine l = none :=
  if_neg (ne_true_of_eq_false hl)

/-- A line that stands for n times one operation. -/
theorem assembleLine_replicate {l : AsmLine} {n : Nat} {op : SourceOp} (hl : l.wellFormed = true)
    (hops : expandLine l = some (List.replicate n op)) :
    assembleLine l = some (List.replicate n (encode op.toInstr)) := by
  rw [assembleLine_of_wellFormed hl hops, List.map_replicate]

/-! ### One cycle of the wait of RECV (R76, R126), in R76's wording and in the loop's -/

/-- What the first cycle of a wait settles: a receive attempt on a full Channel is the last of the k POP lines, one on
an empty Channel is the first of them, and any other operation is none; `later j t` says that the wait goes on from t
for j lines. -/
def WaitCycle (w : CycleWord) (s : State) (k : Nat) (later : Nat → State → Prop) : Prop :=
  ∃ t, cycleStep w s = .next t ∧
    ((isReceive w = true ∧ s.full = true ∧ k = 1) ∨
     (isReceive w = true ∧ s.full = false ∧ ∃ j, later j t ∧ k = j + 1) ∨
     (isReceive w = false ∧ later k t))

/-- Every receive attempt among the words starts in a cycle with full = 0: the last condition of recvTakes. -/
def AttemptsFindEmpty (ws : List CycleWord) (s : State) : Prop :=
  ∀ (earlier : List CycleWord) (v : CycleWord) (later : List CycleWord),
    ws = earlier ++ v :: later → isReceive v = true → ∃ x, runWords earlier s = .next x ∧ x.full = false

theorem attemptsFindEmpty_nil (s : State) : AttemptsFindEmpty [] s :=
  fun _ _ _ h => absurd h.symm (List.append_ne_nil_of_right_ne_nil _ (List.cons_ne_nil _ _))

theorem attemptsFindEmpty_cons_iff {w : CycleWord} {ws : List CycleWord} {s t : State} (h : cycleStep w s = .next t) :
    AttemptsFindEmpty (w :: ws) s ↔ (isReceive w = true → s.full = false) ∧ AttemptsFindEmpty ws t := by
  constructor
  · intro hall
    refine ⟨fun hr => ?_, fun earlier v later hws hv => ?_⟩
    · obtain ⟨x, hx, hempty⟩ := hall [] w ws rfl hr
      cases hx
      exact hempty
    · obtain ⟨x, hx, hempty⟩ := hall (w :: earlier) v later (by rw [hws, List.cons_append]) hv
      exact ⟨x, by rwa [runWords_cons earlier h] at hx, hempty⟩
  · rintro ⟨hfirst, hrest⟩ earlier v later hws hv
    cases earlier with
    | nil =>
      obtain ⟨rfl, -⟩ := List.cons.inj hws
      exact ⟨s, rfl, hfirst hv⟩
    | cons w' earlier =>
      obtain ⟨rfl, hws'⟩ := List.cons.inj hws
      rw [runWords_cons earlier h]
      exact hrest earlier v later hws' hv

theorem not_recvTakes_nil (k : Nat) (s : State) : ¬ recvTakes k [] s := by
  rintro ⟨before, w, rest, -, -, hws, -⟩
  exact List.append_ne_nil_of_right_ne_nil before (List.cons_ne_nil w rest) hws.symm

/-- A word before a wait that is not its last POP line adds one line if it is a receive attempt. -/
theorem recvTakes_cons_of_later {j : Nat} {w : CycleWord} {ws : List CycleWord} {s t : State}
    (h : cycleStep w s = .next t) (hfirst : isReceive w = true → s.full = false) (hlater : recvTakes j ws t) :
    recvTakes (j + if isReceive w then 1 else 0) (w :: ws) s := by
  obtain ⟨before, v, rest, x, u, rfl, rfl, hrun, hv, hfull, hlast, hempty⟩ := hlater
  refine ⟨w :: before, v, rest, x, u, rfl, ?_, by rwa [runWords_cons before h], hv, hfull, hlast,
    (attemptsFindEmpty_cons_iff h).mpr ⟨hfirst, hempty⟩⟩
  rw [List.countP_cons]
  omega

theorem recvTakes_cons_iff {k : Nat} {w : CycleWord} {ws : List CycleWord} {s : State} :
    recvTakes k (w :: ws) s ↔ WaitCycle w s k fun j t => recvTakes j ws t := by
  constructor
  · rintro ⟨before, v, rest, x, u, hws, hk, hrun, hv, hfull, hlast, hempty⟩
    cases before with
    | nil =>
      obtain ⟨rfl, rfl⟩ := List.cons.inj hws
      cases hrun
      exact ⟨u, hlast, .inl ⟨hv, hfull, hk⟩⟩
    | cons w' before =>
      obtain ⟨rfl, hws'⟩ := List.cons.inj hws
      obtain ⟨t, ht, hrun'⟩ := runWords_cons_next hrun
      obtain ⟨hfirst, hempty'⟩ := (attemptsFindEmpty_cons_iff ht).mp hempty
      have hlater : recvTakes (before.countP isReceive + 1) ws t :=
        ⟨before, v, rest, x, u, hws', rfl, hrun', hv, hfull, hlast, hempty'⟩
      refine ⟨t, ht, ?_⟩
      rw [List.countP_cons] at hk
      cases hr : isReceive w with
      | true => exact .inr (.inl ⟨rfl, hfirst hr, _, hlater, by simpa [hr] using hk⟩)
      | false => exact .inr (.inr ⟨rfl, by simpa [hr, hk] using hlater⟩)
  · rintro ⟨t, ht, ⟨hr, hfull, rfl⟩ | ⟨hr, hempty, j, hlater, rfl⟩ | ⟨hr, hlater⟩⟩
    · exact ⟨[], w, ws, s, t, rfl, rfl, rfl, hr, hfull, ht, attemptsFindEmpty_nil s⟩
    · simpa [hr] using recvTakes_cons_of_later ht (fun _ => hempty) hlater
    · simpa [hr] using recvTakes_cons_of_later ht (fun h => absurd (hr.symm.trans h) Bool.false_ne_true) hlater

/-- The loop ends with k POP lines. -/
def RecvEndsWith (k : Nat) (ws : List CycleWord) (s : State) : Prop := ∃ r, recv ws s = some r ∧ r.lines = k

theorem recvEndsWith_cons_iff {k : Nat} {w : CycleWord} {ws : List CycleWord} {s : State} :
    RecvEndsWith k (w :: ws) s ↔ WaitCycle w s k fun j t => RecvEndsWith j ws t := by
  constructor
  · rintro ⟨r, hr, rfl⟩
    obtain ⟨t, ht, ⟨hw, hf, rfl⟩ | ⟨hw, hf, r', hr', rfl⟩ | ⟨hw, hr'⟩⟩ := waitLoop_some ws hr
    · exact ⟨t, ht, .inl ⟨hw, hf, rfl⟩⟩
    · exact ⟨t, ht, .inr (.inl ⟨hw, hf, _, ⟨r', hr', rfl⟩, rfl⟩)⟩
    · exact ⟨t, ht, .inr (.inr ⟨hw, r, hr', rfl⟩)⟩
  · rintro ⟨t, ht, ⟨hw, hf, rfl⟩ | ⟨hw, hf, j, ⟨r, hr, rfl⟩, rfl⟩ | ⟨hw, r, hr, rfl⟩⟩
    · exact ⟨_, waitLoop_delivers ws ht hw hf, rfl⟩
    · exact ⟨r.addLine, (waitLoop_waits ws ht hw hf).trans (congrArg (Option.map Waited.addLine) hr), rfl⟩
    · exact ⟨r, (waitLoop_other ws ht hw).trans hr, rfl⟩

/-- R76's wording and the loop settle each cycle alike, so they count the same lines. -/
theorem recvTakes_iff_recvEndsWith (k : Nat) (ws : List CycleWord) (s : State) :
    recvTakes k ws s ↔ RecvEndsWith k ws s := by
  induction ws generalizing k s with
  | nil => exact iff_of_false (not_recvTakes_nil k s) (by simp [RecvEndsWith])
  | cons w ws ih => simp only [recvTakes_cons_iff, recvEndsWith_cons_iff, ih]

/-! ### Waits of POP words, and a send during one (R58, R76, R126) -/

/-- A POP on a full Channel ends the wait. -/
theorem recv_pop_of_full {s : State} (rest : List CycleWord) (hs : s.initialised = true) (hf : s.full = true) :
    recv (encode .pop :: rest) s = some ⟨1, edgeOf .pop s, rest⟩ := by
  rw [recv_attempt rest hs (isReceive_encode .pop), if_pos hf, decode_encode]

theorem addLine_iterate {ω σ : Type} (n : Nat) (r : Waited ω σ) :
    Waited.addLine^[n] r = ⟨r.lines + n, r.after, r.rest⟩ := by
  induction n with
  | zero => rfl
  | succ n ih => rw [Function.iterate_succ_apply', ih]; rfl

/-- POPs on an empty Channel count one line each; they leave it empty and the FilterState as it was. -/
theorem recv_pops_of_empty (n : Nat) (ws : List CycleWord) {s : State} (hs : s.initialised = true)
    (hf : s.full = false) :
    ∃ t, t.initialised = true ∧ t.full = false ∧ t.primed = s.primed ∧ t.prev = s.prev ∧
      recv (List.replicate n (encode .pop) ++ ws) s = (recv ws t).map Waited.addLine^[n] := by
  induction n generalizing s with
  | zero => exact ⟨s, hs, hf, rfl, rfl, by simp⟩
  | succ n ih =>
    obtain ⟨t, ht, htf, hprimed, hprev, hrecv⟩ :=
      ih (s := edgeOf .pop s) (edgeOf_initialised .pop hs) (by simp [edgeOf, hf])
    refine ⟨t, ht, htf, by simpa [edgeOf] using hprimed, by simpa [edgeOf] using hprev, ?_⟩
    rw [List.replicate_succ, List.cons_append, recv_attempt _ hs (isReceive_encode .pop), hf,
      if_neg Bool.false_ne_true, decode_encode, hrecv, Option.map_map, Function.iterate_succ']

/-- A send on an empty Channel and then a POP end the wait: the send's own receive attempt, if it makes one, finds the
Channel empty, and the POP receives the filtered sample. -/
theorem recv_send_then_pop {i : Instr} {raw : Sample} (hsend : sampleOf i = some raw) (rest : List CycleWord)
    {s : State} (hs : s.initialised = true) (hf : s.full = false) :
    ∃ u : State, u.rxQ = filteredSample s.primed s.prev raw ∧
      recv (encode i :: encode .pop :: rest) s = some ⟨1 + if receives i then 1 else 0, u, rest⟩ := by
  obtain ⟨hfull, hslot, -⟩ := edgeOf_send_of_empty hsend hf
  have hpop := recv_pop_of_full rest (edgeOf_initialised i hs) hfull
  refine ⟨edgeOf .pop (edgeOf i s), by rw [edgeOf_rxQ _ (by simp), hfull]; exact hslot, ?_⟩
  cases hr : receives i with
  | false => rw [recv_other _ hs (by rw [isReceive_encode, hr]), decode_encode, hpop]; rfl
  | true =>
    rw [recv_attempt _ hs (by rw [isReceive_encode, hr]), hf, if_neg Bool.false_ne_true, decode_encode, hpop]
    rfl

/-- The wait of n POPs on an empty Channel, a send and a POP. -/
theorem recv_pops_send_pop {i : Instr} {raw : Sample} (hsend : sampleOf i = some raw) (n : Nat) (rest : List CycleWord)
    {s : State} (hs : s.initialised = true) (hf : s.full = false) :
    ∃ r, recv (List.replicate n (encode .pop) ++ encode i :: encode .pop :: rest) s = some r ∧
      r.lines = n + 1 + (if receives i then 1 else 0) ∧ r.after.rxQ = filteredSample s.primed s.prev raw ∧
      r.rest = rest := by
  obtain ⟨t, ht, htf, hprimed, hprev, hpops⟩ := recv_pops_of_empty n (encode i :: encode .pop :: rest) hs hf
  obtain ⟨u, hrx, hend⟩ := recv_send_then_pop hsend rest ht htf
  rw [hprimed, hprev] at hrx
  rw [hpops, hend, Option.map_some, addLine_iterate]
  exact ⟨_, rfl, by dsimp only; omega, hrx, rfl⟩

/-! ### Tier 3 -/

/-- Settles O59: the step is a cycle, which keeps the balance, and then a change of the environment only. -/
theorem stepKeepsFifoBalance : Obligations.StepKeepsFifoBalance := by
  refine ⟨reset_fifoBalanced, fun accepted delivered s t hs hR h => ?_⟩
  obtain ⟨u, hu, rfl⟩ := step_next h
  exact nextCycle_fifoBalanced (cycleStep_fifoBalanced hs hR hu)

/-! ### Tier 2 -/

/-- Settles O32: the balance of a run whose histories start empty, and the conditions of one cycle's push. -/
theorem channelIsFifo : Obligations.ChannelIsFifo := by
  refine ⟨fun ws t hno h => ?_, fun w s t hs h => ?_⟩
  · have hinit : t.initialised = true := runWords_keeps (fun _ _ _ _ => cycleStep_initialised) rfl h
    exact ⟨run_from_reset_fifoBalanced hno h, pending_length_le_capacity t, exec_pop_of_full hinit⟩
  · obtain ⟨hreset, rfl⟩ | ⟨hi, -, rfl⟩ := exec_next_cases h
    · refine ⟨fun _ => rfl, fun hacc => absurd hacc sIdle_ne_sAccepted, fun hsend => ?_⟩
      rw [isSend_eq_sampleOf_isSome, hreset] at hsend
      exact absurd hsend Bool.false_ne_true
    · have haccepts := edgeOf_accepts_iff s hi
      rw [← isSend_eq_sampleOf_isSome] at haccepts
      refine ⟨fun hR => absurd (decode_of_rst hR) hi, fun hacc => (haccepts.mp hacc).1, fun hsend hrefused => ?_⟩
      exact eq_true_of_ne_false fun hempty => hrefused (haccepts.mpr ⟨hempty, hsend⟩)

/-- Settles O33: the pending sample is the last of the balance, and a refused PUSH writes the FilterState only. -/
theorem pendingSampleIsTheLastAccepted : Obligations.PendingSampleIsTheLastAccepted := by
  refine ⟨fun ws t hno h hf => ?_, fun raw s t hf h => ?_⟩
  · rw [run_from_reset_fifoBalanced hno h, pending_of_full hf, List.getLast?_concat]
  · obtain ⟨hreset, -⟩ | ⟨-, -, rfl⟩ := exec_next_cases h
    · cases hreset
    · simp [State.pending, edgeOf, hf]

/-- Settles O8: the lines by their expansions, the wait by its cycles, which R76's wording and the loop settle alike. -/
theorem pseudoOperationsExpand : Obligations.PseudoOperationsExpand := by
  refine ⟨fun n => assembleLine_replicate (op := .nop) rfl rfl, fun _ => rfl,
    fun n hn => assembleLine_replicate (op := .reset) (decide_eq_true hn) rfl, assembleLine_of_illFormed rfl, rfl,
    recvTakes_iff_recvEndsWith, fun n s hs => ⟨fun hf => ?_, fun hf => ?_⟩, fun n raw rest s hs hf => ⟨?_, ?_⟩⟩
  · exact ⟨_, recv_pop_of_full _ hs hf, rfl⟩
  · obtain ⟨t, -, -, -, -, hpops⟩ := recv_pops_of_empty n [] hs hf
    simpa using hpops
  · exact recv_pops_send_pop (i := .pushpop raw) rfl n rest hs hf
  · exact recv_pops_send_pop (i := .push raw) rfl n rest hs hf

/-! ### Tier 1 -/

/-- Settles O37: the receive of the PUSHPOP sees the empty Channel of the start of its cycle, the POP the full one. -/
theorem pushedSampleIsPoppableNextCycle : Obligations.PushedSampleIsPoppableNextCycle := by
  intro raw s hs hf
  obtain ⟨hfull, hslot, hacc⟩ := edgeOf_send_of_empty (i := .pushpop raw) rfl hf
  obtain ⟨u, hpop, hrx, hdel⟩ := exec_pop_of_full (edgeOf_initialised (.pushpop raw) hs) hfull
  exact ⟨_, u, exec_of_initialised _ hs, hacc, by simp [edgeOf, hf], by simp [edgeOf, hf], by simp [edgeOf, hf], hpop,
    hdel, hrx.trans hslot⟩

end Sys2Proof.Machine
end

section
/-!
SUPPORT and proofs for 30_encoding.md. First the layer of facts: the control field of a word and what it fixes, the raw
field beside it, an operation printed and read back, and what one cycle of a wait delivers. Then the statements, by
tier.
-/
namespace Sys2Proof.Machine

/-! ### The control field of a word (R70, R72) -/

/-- The word with control bits R, V and Q and a raw field of zeros (R70). -/
def controlWord (r v q : Bool) : CycleWord :=
  (if r then 0x4000#15 else 0#15) ||| (if v then 0x2000#15 else 0#15) ||| if q then 0x1000#15 else 0#15

theorem controlWord_inj {r v q r' v' q' : Bool} :
    controlWord r v q = controlWord r' v' q' ↔ r = r' ∧ v = v' ∧ q = q' := by
  revert r v q r' v' q'
  decide

/-- The mask of R72 keeps the control bits and clears the raw field. -/
theorem and_mask_eq_controlWord (w : CycleWord) :
    w &&& 0x7000#15 = controlWord (fieldR w) (fieldV w) (fieldQ w) := by
  have hmask : 0x7000#15 = BitVec.twoPow 15 14 ||| BitVec.twoPow 15 13 ||| BitVec.twoPow 15 12 := by decide
  rw [hmask, BitVec.and_or_distrib_left, BitVec.and_or_distrib_left, BitVec.and_twoPow, BitVec.and_twoPow,
    BitVec.and_twoPow]
  rfl

theorem and_mask_eq_controlWord_iff {w : CycleWord} {r v q : Bool} :
    w &&& 0x7000#15 = controlWord r v q ↔ fieldR w = r ∧ fieldV w = v ∧ fieldQ w = q := by
  rw [and_mask_eq_controlWord, controlWord_inj]

/-- RESET's mask of R72 keeps bit R only. -/
theorem and_rstMask_eq_iff {w : CycleWord} : w &&& 0x4000#15 = 0x4000#15 ↔ fieldR w = true := by
  have hmask : w &&& 0x4000#15 = if fieldR w then 0x4000#15 else 0#15 := BitVec.and_twoPow w 14
  rw [hmask]
  cases fieldR w <;> decide

@[simp] theorem fieldR_and_mask (w : CycleWord) : fieldR (w &&& 0x7000#15) = fieldR w := by simp [fieldR]
@[simp] theorem fieldV_and_mask (w : CycleWord) : fieldV (w &&& 0x7000#15) = fieldV w := by simp [fieldV]
@[simp] theorem fieldQ_and_mask (w : CycleWord) : fieldQ (w &&& 0x7000#15) = fieldQ w := by simp [fieldQ]

/-! ### The control field and the operation (R71 to R73) -/

theorem fields_of_decode {w : CycleWord} {i : Instr} (hi : i ≠ .reset) (h : decode w = i) :
    fieldR w = false ∧ fieldV w = (sampleOf i).isSome ∧ fieldQ w = receives i := by
  subst h
  have hR : fieldR w = false := eq_false_of_ne_true (mt decode_of_rst hi)
  refine ⟨hR, ?_, (receives_decode hR).symm⟩
  rw [sampleOf_decode hR]
  cases fieldV w <;> rfl

/-- The control field selects an operation other than RESET, where the words with its control bits decode to it. -/
theorem and_mask_eq_iff_decode_eq {w : CycleWord} {i : Instr} {v q : Bool} (hi : i ≠ .reset)
    (hV : (sampleOf i).isSome = v) (hQ : receives i = q)
    (hselects : fieldR w = false → fieldV w = v → fieldQ w = q → decode w = i) :
    w &&& 0x7000#15 = controlWord false v q ↔ decode w = i := by
  subst hV hQ
  exact and_mask_eq_controlWord_iff.trans ⟨fun ⟨hR, hV, hQ⟩ => hselects hR hV hQ, fields_of_decode hi⟩

/-- Clearing the raw field changes the operation only where the raw field is its operand (R71). -/
theorem decode_and_mask {w : CycleWord} (hignored : fieldR w = true ∨ fieldV w = false) :
    decode (w &&& 0x7000#15) = decode w := by
  obtain hR | hV := hignored
  · rw [decode_of_rst hR, decode_of_rst (by rw [fieldR_and_mask, hR])]
  · cases hQ : fieldQ w <;> simp [decode, hV, hQ]

/-- The raw field has no part in the mnemonic. -/
theorem mnemonic_decode_and_mask (w : CycleWord) : (decode (w &&& 0x7000#15)).mnemonic = (decode w).mnemonic := by
  by_cases hignored : fieldR w = true ∨ fieldV w = false
  · rw [decode_and_mask hignored]
  · have ⟨hR, hV⟩ := not_or.mp hignored
    cases hQ : fieldQ w <;> simp [decode, hR, hV, hQ, Instr.mnemonic]

/-- No row of the table looks at the raw field (R72). -/
theorem covers_and_mask {row : OpcodeRow} (hrow : row ∈ opcodeTable) (w : CycleWord) :
    row.covers (w &&& 0x7000#15) = row.covers w := by
  have hmask : 0x7000#15 &&& row.mask = row.mask := by
    revert row
    decide
  rw [OpcodeRow.covers, OpcodeRow.covers, BitVec.and_assoc, hmask]

theorem covers_controlWord_iff : ∀ r v q : Bool, ∀ row ∈ opcodeTable,
    row.covers (controlWord r v q) = true ↔ row.mnemonic = (decode (controlWord r v q)).mnemonic := by
  decide

/-- The row of a mnemonic covers the words whose operation bears it: eight control fields decide it. -/
theorem covers_iff_mnemonic_eq {row : OpcodeRow} (hrow : row ∈ opcodeTable) (w : CycleWord) :
    row.covers w = true ↔ row.mnemonic = (decode w).mnemonic := by
  rw [← covers_and_mask hrow, ← mnemonic_decode_and_mask, and_mask_eq_controlWord]
  exact covers_controlWord_iff _ _ _ row hrow

theorem opcodeTable_mnemonic_injective :
    ∀ row ∈ opcodeTable, ∀ other ∈ opcodeTable, other.mnemonic = row.mnemonic → other = row := by
  decide

theorem exists_row_of_mnemonic (i : Instr) : ∃ row ∈ opcodeTable, row.mnemonic = i.mnemonic := by
  cases i <;> simp [opcodeTable, Instr.mnemonic]

/-! ### The raw field (R70, R71, R75) -/

theorem fieldRaw_toNat (w : CycleWord) : (fieldRaw w).toNat = w.toNat % 4096 :=
  Elaborated.extractLsb'_raw_toNat (e := .reference) w

/-- A word is its control field over its raw field. -/
theorem and_mask_or_fieldRaw (w : CycleWord) : (w &&& 0x7000#15) ||| (fieldRaw w).setWidth 15 = w := by
  refine BitVec.eq_of_getLsbD_eq fun i hi => ?_
  rw [BitVec.getLsbD_or, BitVec.getLsbD_and]
  interval_cases i <;> simp [fieldRaw]

theorem encode_push_toNat (raw : Sample) : (encode (.push raw)).toNat = 0x2000 + raw.toNat := by
  rw [← Elaborated.encode_ofInstr]
  exact Elaborated.wordOf_toNat (ctl := 2) (by decide) raw.isLt

theorem encode_pushpop_toNat (raw : Sample) : (encode (.pushpop raw)).toNat = 0x3000 + raw.toNat := by
  rw [← Elaborated.encode_ofInstr]
  exact Elaborated.wordOf_toNat (ctl := 3) (by decide) raw.isLt

/-- A word with R = 0 and V = 1 holds no ignored bit: it is its operation's canonical word (R71, R75). -/
theorem encode_decode_of_send {w : CycleWord} (hR : fieldR w = false) (hV : fieldV w = true) :
    encode (decode w) = w := by
  have hword := and_mask_or_fieldRaw w
  rw [and_mask_eq_controlWord, hR, hV] at hword
  cases hQ : fieldQ w with
  | false => rw [decode_push hR hV hQ]; rwa [hQ] at hword
  | true => rw [decode_pushpop hR hV hQ]; rwa [hQ] at hword

/-- A word with R = 0 and V = 0 holds its control field and ignored bits (R71, R75). -/
theorem encode_decode_of_no_send {w : CycleWord} (hR : fieldR w = false) (hV : fieldV w = false) :
    encode (decode w) = w &&& 0x7000#15 := by
  rw [and_mask_eq_controlWord, hR, hV]
  cases hQ : fieldQ w with
  | false => rw [decode_nop hR hV hQ]; rfl
  | true => rw [decode_pop hR hV hQ]; rfl

/-! ### A numeral printed and read back (R75) -/

theorem digitValue_of_isDigit {c : Char} (h : c.isDigit = true) : digitValue c = some (c.toNat - '0'.toNat) :=
  if_pos (Char.isDigit_iff_toNat.mp h)

/-- On decimal digits the assembler's value is the library's. -/
theorem digitsValue_of_isDigit {cs : List Char} (h : ∀ c ∈ cs, c.isDigit = true) (acc : Nat) :
    digitsValue 10 cs acc = some (Nat.ofDigitChars 10 cs acc) := by
  induction cs generalizing acc with
  | nil => rfl
  | cons c cs ih =>
    obtain ⟨hc, hcs⟩ := List.forall_mem_cons.mp h
    have hlt : c.toNat - '0'.toNat < 10 := by
      have hle : c.toNat ≤ 57 := (Char.isDigit_iff_toNat.mp hc).2
      change c.toNat - 48 < 10
      omega
    rw [digitsValue, digitValue_of_isDigit hc, Nat.ofDigitChars_cons, Nat.mul_comm]
    exact (if_pos hlt).trans (ih hcs _)

/-- A numeral of decimal digits does not begin with `0x`, so it is read as a decimal integer (R75). -/
theorem parseNumber_of_isDigit {cs : List Char} (hne : cs ≠ []) (h : ∀ c ∈ cs, c.isDigit = true) :
    parseNumber cs = some (Nat.ofDigitChars 10 cs 0) := by
  have hx : 'x' ∉ cs := fun hmem => absurd (h 'x' hmem) (by decide)
  rw [← digitsValue_of_isDigit h]
  unfold parseNumber
  split
  · exact absurd rfl hne
  · simp at hx
  · simp at hx
  · rfl

theorem parseNumber_toDigits (n : Nat) : parseNumber (Nat.toDigits 10 n) = some n := by
  rw [parseNumber_of_isDigit Nat.toDigits_ne_nil fun c => Nat.isDigit_of_mem_toDigits (by decide) (by decide),
    Nat.ofDigitChars_ten_toDigits]

/-! ### A line printed and read back (R75) -/

/-- The characters of one part of a line: no blank stands among them, and no comment begins there. -/
def IsPart (cs : List Char) : Prop := cs ≠ [] ∧ ∀ c ∈ cs, isBlank c = false ∧ (c != ';') = true

theorem isPart_toDigits (n : Nat) : IsPart (Nat.toDigits 10 n) := by
  refine ⟨Nat.toDigits_ne_nil, fun c hc => ?_⟩
  have hdigit : c.isDigit = true := Nat.isDigit_of_mem_toDigits (by decide) (by decide) hc
  have hnot (d : Char) (hd : d.isDigit = false) : c ≠ d := by
    rintro rfl
    exact Bool.false_ne_true (hd.symm.trans hdigit)
  simp [isBlank, hnot ' ' (by decide), hnot '\t' (by decide), hnot ';' (by decide)]

theorem lineParts_of_two_parts {m a : List Char} (hm : IsPart m) (ha : IsPart a) :
    lineParts (m ++ ' ' :: a) = [m, a] := by
  obtain ⟨hmne, hmall⟩ := hm
  obtain ⟨hane, haall⟩ := ha
  have htake : (m ++ ' ' :: a).takeWhile (fun c => c != ';') = m ++ ' ' :: a :=
    List.takeWhile_eq_self_iff.mpr <| List.forall_mem_append.mpr
      ⟨fun c hc => (hmall c hc).2, List.forall_mem_cons.mpr ⟨rfl, fun c hc => (haall c hc).2⟩⟩
  rw [lineParts, htake, List.splitOnP_append_cons_of_forall_mem (fun c hc => (hmall c hc).1) ' ' rfl,
    List.splitOnP_eq_singleton fun c hc => (haall c hc).1]
  simp [hmne, hane]

/-- The line of the source text that a source operation is printed as. -/
def lineOf : SourceOp → AsmLine
  | .nop => .nop
  | .push raw => .push raw
  | .pop => .pop
  | .pushpop raw => .pushpop raw
  | .reset => .reset

theorem expandLine_lineOf (op : SourceOp) : expandLine (lineOf op) = some [op] := by cases op <;> rfl

theorem parseLine_print (op : SourceOp) : parseLine op.print = some (lineOf op) := by
  cases op with
  | nop => decide
  | push raw =>
    have hprint : SourceOp.print (.push raw) = "PUSH".toList ++ ' ' :: Nat.toDigits 10 raw := rfl
    rw [parseLine, hprint, lineParts_of_two_parts (by simp [IsPart, isBlank]) (isPart_toDigits raw)]
    simp [parseNumber_toDigits, lineOf]
  | pop => decide
  | pushpop raw =>
    have hprint : SourceOp.print (.pushpop raw) = "PUSHPOP".toList ++ ' ' :: Nat.toDigits 10 raw := rfl
    rw [parseLine, hprint, lineParts_of_two_parts (by simp [IsPart, isBlank]) (isPart_toDigits raw)]
    simp [parseNumber_toDigits, lineOf]
  | reset => decide

theorem lineOf_sourceOp_wellFormed (i : Instr) : (lineOf (sourceOp i)).wellFormed = true := by
  cases i with
  | nop => rfl
  | push raw => exact decide_eq_true (Nat.le_pred_of_lt raw.isLt)
  | pop => rfl
  | pushpop raw => exact decide_eq_true (Nat.le_pred_of_lt raw.isLt)
  | reset => rfl

theorem toInstr_sourceOp (i : Instr) : (sourceOp i).toInstr = i := by
  cases i <;> simp [sourceOp, SourceOp.toInstr]

/-- The canonical word of an operation is what its printed line assembles to (R75). -/
theorem assembleLine_lineOf_sourceOp (i : Instr) : assembleLine (lineOf (sourceOp i)) = some [encode i] := by
  rw [assembleLine_of_wellFormed (lineOf_sourceOp_wellFormed i) (expandLine_lineOf _), List.map_singleton,
    toInstr_sourceOp]

theorem assemble_singleton {cs : List Char} {l : AsmLine} {ws : List CycleWord} (hparse : parseLine cs = some l)
    (hwords : assembleLine l = some ws) : assemble [cs] = some ws := by
  simp [assemble, assembleWith, hparse, hwords]

/-! ### What one cycle of a wait delivers (R76, R126) -/

theorem cycleStep_delivers_iff {w : CycleWord} {s t : State} (h : cycleStep w s = .next t) :
    t.rStat = rDelivered ↔ s.full = true ∧ isReceive w = true := by
  rw [isReceive_eq_receives]
  obtain ⟨hreset, rfl⟩ | ⟨hi, -, rfl⟩ := exec_next_cases h
  · rw [hreset]
    exact iff_of_false rIdle_ne_rDelivered fun hrecv => Bool.false_ne_true hrecv.2
  · exact edgeOf_delivers_iff s hi

/-- A receive attempt on a full Channel delivers the pending sample and leaves the Channel empty (R122, R126). -/
theorem cycleStep_of_delivery {w : CycleWord} {s t : State} (h : cycleStep w s = .next t) (hr : isReceive w = true)
    (hf : s.full = true) : t.rStat = rDelivered ∧ t.rxQ = s.slot ∧ t.full = false := by
  have hdelivers := (cycleStep_delivers_iff h).mpr ⟨hf, hr⟩
  rw [isReceive_eq_receives] at hr
  obtain ⟨hreset, -⟩ | ⟨hi, -, rfl⟩ := exec_next_cases h
  · rw [hreset] at hr
    exact absurd hr Bool.false_ne_true
  · exact ⟨hdelivers, by simp [edgeOf_rxQ s hi, hr, hf], by simp [edgeOf_full s hi, hr, hf]⟩

theorem deliveredSamples_cons_of_delivery {w : CycleWord} {s t : State} (ws : List CycleWord)
    (h : cycleStep w s = .next t) (hdel : t.rStat = rDelivered) :
    deliveredSamples (w :: ws) s = t.rxQ :: deliveredSamples ws t := by
  rw [deliveredSamples, collect_cons _ ws h, if_pos hdel, List.singleton_append, deliveredSamples]

theorem deliveredSamples_cons_of_no_delivery {w : CycleWord} {s t : State} (ws : List CycleWord)
    (h : cycleStep w s = .next t) (hno : ¬ (s.full = true ∧ isReceive w = true)) :
    deliveredSamples (w :: ws) s = deliveredSamples ws t := by
  rw [deliveredSamples, collect_cons _ ws h, if_neg (mt (cycleStep_delivers_iff h).mp hno), List.nil_append,
    deliveredSamples]

/-- A POP on an empty Channel writes the two statuses only (R173). -/
theorem cycleStep_pop_of_empty {s : State} (hs : s.initialised = true) (hf : s.full = false) :
    cycleStep (encode .pop) s = .next { s with sStat := sIdle, rStat := rEmpty } := by
  rw [cycleStep_of_initialised _ hs, decode_encode, edgeOf, receive_of_empty _ _ hf, noSend]

/-- Every further POP finds the Channel empty and the statuses as the first left them (R126). -/
theorem runWords_pops_of_empty (k : Nat) {s : State} (hs : s.initialised = true) (hf : s.full = false) :
    runWords (List.replicate (k + 1) (encode .pop)) s = .next { s with sStat := sIdle, rStat := rEmpty } := by
  induction k generalizing s with
  | zero => exact runWords_cons [] (cycleStep_pop_of_empty hs hf)
  | succ k ih =>
    rw [List.replicate_succ, runWords_cons _ (cycleStep_pop_of_empty hs hf)]
    exact ih hs hf

theorem deliveredSamples_pops_of_empty (k : Nat) {s : State} (hs : s.initialised = true) (hf : s.full = false) :
    deliveredSamples (List.replicate k (encode .pop)) s = [] := by
  induction k generalizing s with
  | zero => rfl
  | succ k ih =>
    rw [List.replicate_succ, deliveredSamples_cons_of_no_delivery _ (cycleStep_pop_of_empty hs hf) (by simp [hf])]
    exact ih hs hf

/-- The first POP delivers the held sample, and the others find the Channel empty (R126). -/
theorem deliveredSamples_pops_of_full (k : Nat) {s : State} (hs : s.initialised = true) (hf : s.full = true) :
    deliveredSamples (List.replicate (k + 1) (encode .pop)) s = [s.slot] := by
  have hpop := cycleStep_of_initialised (encode .pop) hs
  obtain ⟨hdel, hrx, hempty⟩ := cycleStep_of_delivery hpop (isReceive_encode .pop) hf
  rw [List.replicate_succ, deliveredSamples_cons_of_delivery _ hpop hdel, hrx,
    deliveredSamples_pops_of_empty k (edgeOf_initialised _ hs) hempty]

/-- The words end at a delivery, from s to t, and it is the only one among them. -/
structure EndsAtOnlyDelivery (ws : List CycleWord) (s t : State) : Prop where
  runs : runWords ws s = .next t
  delivers : deliveredSamples ws s = [t.rxQ]
  delivered : t.rStat = rDelivered
  empty : t.full = false

theorem EndsAtOnlyDelivery.singleton {w : CycleWord} {s t : State} (h : cycleStep w s = .next t)
    (hr : isReceive w = true) (hf : s.full = true) : EndsAtOnlyDelivery [w] s t := by
  obtain ⟨hdel, -, hempty⟩ := cycleStep_of_delivery h hr hf
  exact ⟨runWords_cons [] h, deliveredSamples_cons_of_delivery [] h hdel, hdel, hempty⟩

theorem EndsAtOnlyDelivery.cons {w : CycleWord} {ws : List CycleWord} {s t u : State} (h : cycleStep w s = .next t)
    (hno : ¬ (s.full = true ∧ isReceive w = true)) (hlater : EndsAtOnlyDelivery ws t u) :
    EndsAtOnlyDelivery (w :: ws) s u :=
  ⟨(runWords_cons ws h).trans hlater.runs, (deliveredSamples_cons_of_no_delivery ws h hno).trans hlater.delivers,
    hlater.delivered, hlater.empty⟩

/-- A wait that ends has run words that end at their only delivery (R76, R126). -/
theorem recv_ends_at_only_delivery {ws : List CycleWord} {s : State} {r : Waited CycleWord State}
    (h : recv ws s = some r) : ∃ before, ws = before ++ r.rest ∧ EndsAtOnlyDelivery before s r.after := by
  induction ws generalizing s r with
  | nil => cases h
  | cons w ws ih =>
    obtain ⟨t, ht, ⟨hr, hf, rfl⟩ | ⟨-, hf, r', hr', rfl⟩ | ⟨hr, hr'⟩⟩ := waitLoop_some ws h
    · exact ⟨[w], rfl, .singleton ht hr hf⟩
    · obtain ⟨before, rfl, hends⟩ := ih hr'
      exact ⟨w :: before, rfl, hends.cons ht (by simp [hf])⟩
    · obtain ⟨before, rfl, hends⟩ := ih hr'
      exact ⟨w :: before, rfl, hends.cons ht (by simp [hr])⟩

/-! ### Tier 3 -/

/-- Settles O1: the round trip of every operation, whose operand is any 12-bit value. -/
theorem decodeGivesBackEncodedOperation : Obligations.DecodeGivesBackEncodedOperation :=
  fun i _ => decode_encode i

/-! ### Tier 2 -/

/-- Settles O2: RESET has one canonical word, a send has no ignored bit, and NOP and POP have no operand. -/
theorem encodeOfDecodedWordIsCanonical : Obligations.EncodeOfDecodedWordIsCanonical := by
  intro w
  change encode (decode w) = if fieldR w then 0x4000#15 else if fieldV w then w else w &&& 0x7000#15
  cases hR : fieldR w with
  | true => rw [decode_of_rst hR]; rfl
  | false =>
    cases hV : fieldV w with
    | true => exact encode_decode_of_send hR hV
    | false => exact encode_decode_of_no_send hR hV

/-- Settles O4: the row of the decoded operation's mnemonic, which no other row bears. -/
theorem rowsPartitionTheWordSpace : Obligations.RowsPartitionTheWordSpace := by
  intro w
  obtain ⟨row, hrow, hmnemonic⟩ := exists_row_of_mnemonic (decode w)
  refine ⟨row, hrow, (covers_iff_mnemonic_eq hrow w).mpr hmnemonic, hmnemonic, fun other hother hcovers => ?_⟩
  exact opcodeTable_mnemonic_injective row hrow other hother
    (((covers_iff_mnemonic_eq hother w).mp hcovers).trans hmnemonic.symm)

/-- Settles O5: the operand is the raw field, and any other word decodes as it does with its raw field cleared. -/
theorem rawFieldIsReadOnlyBySends : Obligations.RawFieldIsReadOnlyBySends := by
  refine ⟨fun w hR hV => ⟨fieldRaw w, ?_, congrArg Nat.cast (fieldRaw_toNat w)⟩, fun w v hcontrol hignored => ?_⟩
  · cases hQ : fieldQ w with
    | false => exact .inl (decode_push hR hV hQ)
    | true => exact .inr (decode_pushpop hR hV hQ)
  · have hignored' : fieldR v = true ∨ fieldV v = false := by
      rwa [← fieldR_and_mask, ← fieldV_and_mask, ← hcontrol, fieldR_and_mask, fieldV_and_mask]
    have hdecode : decode w = decode v := by
      rw [← decode_and_mask hignored, hcontrol, decode_and_mask hignored']
    exact ⟨hdecode, fun s => by rw [cycleStep, cycleStep, hdecode]⟩

/-- Settles O7: an operand up to 4095 is its own 12-bit value above a control field, a larger one is ill formed. -/
theorem assemblerRefusesAndNeverTruncates : Obligations.AssemblerRefusesAndNeverTruncates := by
  refine ⟨fun raw hraw => ?_, fun raw hraw => ?_, rfl, rfl, rfl⟩
  · have hrange : rawInRange Params.reference raw = true := decide_eq_true hraw
    have hvalue : (BitVec.ofNat 12 raw).toNat = raw := Nat.mod_eq_of_lt (Nat.lt_succ_of_le hraw)
    exact ⟨⟨_, assembleLine_of_wellFormed (l := .push raw) hrange rfl, (encode_push_toNat _).trans (by rw [hvalue])⟩,
      ⟨_, assembleLine_of_wellFormed (l := .pushpop raw) hrange rfl, (encode_pushpop_toNat _).trans (by rw [hvalue])⟩⟩
  · have hrange : rawInRange Params.reference raw = false := decide_eq_false (Nat.not_le.mpr hraw)
    exact ⟨assembleLine_of_illFormed hrange, assembleLine_of_illFormed hrange⟩

/-- Settles O9: the printed line is read back as the operation, which assembles to its canonical word. -/
theorem disassembledTextAssemblesBack : Obligations.DisassembledTextAssemblesBack := fun _ =>
  assemble_singleton (parseLine_print _) (assembleLine_lineOf_sourceOp _)

/-- Settles O36: the POPs by how the first one leaves the Channel, the wait by its only delivery. -/
theorem waitingReceiveChangesNothing : Obligations.WaitingReceiveChangesNothing := by
  refine ⟨fun k _ => runWords_pops_of_empty k, fun k _ => deliveredSamples_pops_of_full k, fun ws s r h => ?_⟩
  obtain ⟨before, hws, hends⟩ := recv_ends_at_only_delivery h
  exact ⟨before, hws, hends.runs, hends.delivers, hends.delivered, hends.empty⟩

/-! ### Tier 1 -/

/-- Settles O3: the four match values under the mask 0x7000 are control words, and RESET's mask leaves bit R. -/
theorem controlFieldSelectsOperation : Obligations.ControlFieldSelectsOperation := fun _ =>
  ⟨and_mask_eq_iff_decode_eq (v := false) (q := false) (by simp) rfl rfl decode_nop,
    and_mask_eq_iff_decode_eq (v := true) (q := false) (by simp) rfl rfl decode_push,
    and_mask_eq_iff_decode_eq (v := false) (q := true) (by simp) rfl rfl decode_pop,
    and_mask_eq_iff_decode_eq (v := true) (q := true) (by simp) rfl rfl decode_pushpop,
    and_rstMask_eq_iff.trans decode_eq_reset_iff.symm⟩

/-- Settles O6 by evaluating the decoder on the eight words. -/
theorem writtenOutWordsDecode : Obligations.WrittenOutWordsDecode := by
  unfold Obligations.WrittenOutWordsDecode
  decide

/-- Settles O10: the decoder's branches with R = 1 and with V = 0 give operations that print no operand. -/
theorem disassemblerHidesIgnoredBits : Obligations.DisassemblerHidesIgnoredBits := by
  refine fun w => ⟨fun hR => ?_, fun hR hV => ?_⟩
  · rw [disassemble, decode_of_rst hR]; rfl
  · change disassemble w = if fieldQ w then "POP".toList else "NOP".toList
    cases hQ : fieldQ w with
    | false => rw [disassemble, decode_nop hR hV hQ]; rfl
    | true => rw [disassemble, decode_pop hR hV hQ]; rfl

end Sys2Proof.Machine
end

section
/-!
SUPPORT and proofs for 40_sampler_filter.md. First the layer of facts: FILT's increment form and what follows from it,
the gap between a held input and the FilterState, which every update moves in the same way, and the bounds of the
FilterState over a cycle and over a run. Then the statements, by tier.
-/
namespace Sys2Proof.Machine

/-! ### FILT's increment form (R103) -/

/-- rnd moves by m when the numerator moves by m whole denominators, as long as it stays non-negative. -/
theorem rnd_mul_add {n d m : Int} (hd : 0 < d) (hn : 0 ≤ d * m + n) : rnd (d * m + n) d = m + (2 * n + d) / (2 * d) := by
  have hsplit : 2 * (d * m + n) + d = 2 * n + d + 2 * d * m := by ring
  rw [rnd_of_nonneg d hn, hsplit, Int.add_mul_ediv_left _ _ (by omega), add_comm]

/-- FILT is the previous value plus the half-up rounded increment (R103). -/
theorem filt_increment {p : Params} (hp : p.Legal) {prev raw : Int} (hprev : 0 ≤ prev) (hraw : 0 ≤ raw) :
    filt p true prev raw = prev + (2 * (p.betaNum * (raw - prev)) + p.betaDen) / (2 * p.betaDen) := by
  have hsplit : (p.betaNum * raw + (p.betaDen - p.betaNum) * prev : Int) =
      p.betaDen * prev + p.betaNum * (raw - prev) := by ring
  have hnonneg := filt_numerator_nonneg hp hprev hraw
  rw [filt_primed, hsplit]
  rw [hsplit] at hnonneg
  exact rnd_mul_add (legal_betaDen_pos hp) hnonneg

theorem reference_legal : Params.reference.Legal := LegalParams.reference.legal

/-- The increment at the defaults, with the common factor 2 of R103's fraction cancelled. -/
theorem filt_reference_increment {prev raw : Int} (hprev : 0 ≤ prev) (hraw : 0 ≤ raw) :
    filt Params.reference true prev raw = prev + (raw - prev + 50) / 100 := by
  rw [filt_increment reference_legal hprev hraw]
  simp only [Params.reference]
  omega

theorem filt_reference_closed {prev raw : Int} (hprev : 0 ≤ prev) (hraw : 0 ≤ raw) :
    filt Params.reference true prev raw = (raw + 99 * prev + 50) / 100 := by
  rw [filt_reference_increment hprev hraw]
  omega

/-- The dead band: the rounded increment is 0 (R107). -/
theorem filt_eq_prev_iff {p : Params} (hp : p.Legal) {prev raw : Int} (hprev : 0 ≤ prev) (hraw : 0 ≤ raw) :
    filt p true prev raw = prev ↔
      -(p.betaDen : Int) ≤ 2 * (p.betaNum * (raw - prev)) ∧ 2 * (p.betaNum * (raw - prev)) < p.betaDen := by
  have hpos := legal_betaDen_pos hp
  have htwo : (0 : Int) < 2 * p.betaDen := by omega
  rw [filt_increment hp hprev hraw, add_eq_left, le_antisymm_iff, ← Int.lt_add_one_iff, Int.ediv_lt_iff_lt_mul htwo,
    Int.le_ediv_iff_mul_le htwo]
  omega

theorem filt_reference_eq_prev_iff {prev raw : Int} (hprev : 0 ≤ prev) (hraw : 0 ≤ raw) :
    filt Params.reference true prev raw = prev ↔ -50 ≤ raw - prev ∧ raw - prev ≤ 49 := by
  rw [filt_reference_increment hprev hraw]
  omega

/-- A numerator halfway between two multiples of the denominator is rounded up (R105). -/
theorem rnd_of_tie {n d : Int} (hd : 0 < d) (hn : 0 ≤ n) (htie : 2 * n = (2 * (n / d) + 1) * d) :
    rnd n d = n / d + 1 := by
  have hup : 2 * n + d = 2 * d * (n / d + 1) := by rw [htie]; ring
  rw [rnd_of_nonneg d hn, hup, Int.mul_ediv_cancel_left _ (by omega)]

theorem tie_of_emod_eq_half {n d : Int} (heven : d % 2 = 0) (hhalf : n % d = d / 2) :
    2 * n = (2 * (n / d) + 1) * d := by
  have hdiv := Int.mul_ediv_add_emod n d
  have htwo : 2 * (d / 2) = d := by omega
  linarith

/-! ### The gap under a held input (R107) -/

/-- The gap raw − prev after an update at the defaults, as a function of the gap before it: the increment is the rounded
hundredth of the gap, wherever raw and prev lie. -/
def gapStep (g : Int) : Int := g - (g + 50) / 100

theorem sub_filt_eq_gapStep {prev raw : Int} (hprev : 0 ≤ prev) (hraw : 0 ≤ raw) :
    raw - filt Params.reference true prev raw = gapStep (raw - prev) := by
  rw [filt_reference_increment hprev hraw, gapStep]
  ring

theorem gapStep_monotone : Monotone gapStep := by
  intro g h hgh
  simp only [gapStep]
  omega

theorem gapStep_of_deadBand {g : Int} (h : -50 ≤ g ∧ g ≤ 49) : gapStep g = g := by
  simp only [gapStep]
  omega

theorem gapStep_iterate_of_deadBand {g : Int} (h : -50 ≤ g ∧ g ≤ 49) (n : Nat) : gapStep^[n] g = g :=
  Function.iterate_fixed (gapStep_of_deadBand h) n

/-- The widest gap above, one update before it is in the dead band. -/
theorem gapStep_iterate_widest_above : gapStep^[426] 4095 = 50 := by decide +kernel

/-- The widest gap below, one update before it is in the dead band. -/
theorem gapStep_iterate_widest_below : gapStep^[426] (-4095) = -51 := by decide +kernel

theorem gapStep_settles_above {g : Int} (hlo : 49 ≤ g) (hhi : g ≤ 4095) : gapStep^[427] g = 49 := by
  have hmono := gapStep_monotone.iterate 427
  have hend : gapStep^[427] 4095 = 49 := by
    rw [Function.iterate_succ_apply', gapStep_iterate_widest_above]; rfl
  have hfix : gapStep^[427] 49 = 49 := gapStep_iterate_of_deadBand (by decide) 427
  exact le_antisymm ((hmono hhi).trans_eq hend) (hfix.symm.trans_le (hmono hlo))

theorem gapStep_settles_below {g : Int} (hlo : -4095 ≤ g) (hhi : g ≤ -50) : gapStep^[427] g = -50 := by
  have hmono := gapStep_monotone.iterate 427
  have hend : gapStep^[427] (-4095) = -50 := by
    rw [Function.iterate_succ_apply', gapStep_iterate_widest_below]; rfl
  have hfix : gapStep^[427] (-50) = -50 := gapStep_iterate_of_deadBand (by decide) 427
  exact le_antisymm ((hmono hhi).trans_eq hfix) (hend.symm.trans_le (hmono hlo))

/-- Every gap between two samples is in the dead band after 427 updates. -/
theorem gapStep_settles {g : Int} (hlo : -4095 ≤ g) (hhi : g ≤ 4095) :
    -50 ≤ gapStep^[427] g ∧ gapStep^[427] g ≤ 49 := by
  rcases lt_or_ge g (-50) with hbelow | hge
  · rw [gapStep_settles_below hlo hbelow.le]; decide
  rcases le_or_gt g 49 with hle | habove
  · rw [gapStep_iterate_of_deadBand ⟨hge, hle⟩]; exact ⟨hge, hle⟩
  · rw [gapStep_settles_above habove.le hhi]; decide

/-- The FilterState under a held input, by the gap alone. -/
theorem filt_reference_iterate {prev raw : Int} (hprev : 0 ≤ prev) (hraw : 0 ≤ raw) (n : Nat) :
    (fun v => filt Params.reference true v raw)^[n] prev = raw - gapStep^[n] (raw - prev) := by
  induction n generalizing prev with
  | zero => exact (sub_sub_cancel raw prev).symm
  | succ n ih =>
    have hnext : 0 ≤ filt Params.reference true prev raw :=
      (filt_between reference_legal true le_rfl ⟨hprev, le_max_left prev raw⟩ ⟨hraw, le_max_right prev raw⟩).1
    rw [Function.iterate_succ_apply, Function.iterate_succ_apply, ih hnext, sub_filt_eq_gapStep hprev hraw]

/-! ### FILT on the registers (R101, R104) -/

theorem filteredSample_valueOf (primed : Bool) (prev raw : Sample) :
    valueOf (filteredSample primed prev raw) = filt Params.reference primed (valueOf prev) (valueOf raw) :=
  filteredSample_toNat primed prev raw

theorem valueOf_injective : Function.Injective valueOf := fun _ _ h => BitVec.eq_of_toNat_eq (Int.ofNat_inj.mp h)

/-- The filtered sample lies within bounds of the raw sample and of an initialized FilterState (R104, R108). -/
theorem filteredSample_within {primed : Bool} {prev raw : Sample} {lo hi : Nat}
    (hprev : primed = true → lo ≤ prev.toNat ∧ prev.toNat ≤ hi) (hraw : lo ≤ raw.toNat ∧ raw.toNat ≤ hi) :
    lo ≤ (filteredSample primed prev raw).toNat ∧ (filteredSample primed prev raw).toNat ≤ hi := by
  have hvalue := filteredSample_toNat primed prev raw
  cases primed with
  | false =>
    rw [filt_unprimed, Int.ofNat_inj] at hvalue
    rwa [hvalue]
  | true =>
    obtain ⟨hlo, hhi⟩ := hprev rfl
    have hbetween := filt_between LegalParams.reference.legal true (Int.natCast_nonneg lo)
      ⟨Int.ofNat_le.mpr hlo, Int.ofNat_le.mpr hhi⟩ ⟨Int.ofNat_le.mpr hraw.1, Int.ofNat_le.mpr hraw.2⟩
    rw [← hvalue] at hbetween
    exact ⟨Int.ofNat_le.mp hbetween.1, Int.ofNat_le.mp hbetween.2⟩

/-! ### The bounds of the FilterState over a cycle and over a run (R108) -/

/-- The raw samples of a run are the operand of its first operation, if that one sends, and then the later ones. -/
theorem rawSamples_cons {w : CycleWord} {s t : State} (ws : List CycleWord) (h : cycleStep w s = .next t) :
    rawSamples (w :: ws) s = (sampleOf (decode w)).toList ++ rawSamples ws t := by
  rw [rawSamples, collect_cons _ ws h, rawSamples]
  congr 1
  cases hR : fieldR w with
  | true => simp [isSend, hR, decode_of_rst hR, sampleOf]
  | false => cases hV : fieldV w <;> simp [isSend, hR, hV, sampleOf_decode hR]

theorem mem_rawSamples_cons {w : CycleWord} {s t : State} {r : Sample} (ws : List CycleWord)
    (h : cycleStep w s = .next t) : r ∈ rawSamples (w :: ws) s ↔ sampleOf (decode w) = some r ∨ r ∈ rawSamples ws t := by
  rw [rawSamples_cons ws h, List.mem_append, Option.mem_toList]

theorem mem_filteredSamples_cons {w : CycleWord} {s t : State} {y : Sample} (ws : List CycleWord)
    (h : cycleStep w s = .next t) :
    y ∈ filteredSamples (w :: ws) s ↔ (isSend w = true ∧ y = t.prev) ∨ y ∈ filteredSamples ws t := by
  rw [filteredSamples, collect_cons _ ws h, List.mem_append, List.mem_ite_nil_right, List.mem_singleton, filteredSamples]

theorem resetRegisters_filterWithin (s : State) (lo hi : Nat) : (resetRegisters s).FilterWithin lo hi :=
  fun h => absurd h Bool.false_ne_true

/-- The bounds speak of the registers only, not of the environment. -/
theorem nextCycle_filterWithin {lo hi : Nat} {s : State} (hs : s.FilterWithin lo hi) :
    s.nextCycle.FilterWithin lo hi := hs

/-- A cycle keeps the FilterState within bounds that its raw sample meets, if it has one. -/
theorem cycleStep_filterWithin {lo hi : Nat} {w : CycleWord} {s t : State} (hs : s.FilterWithin lo hi)
    (hraw : ∀ r, sampleOf (decode w) = some r → lo ≤ r.toNat ∧ r.toNat ≤ hi) (h : cycleStep w s = .next t) :
    t.FilterWithin lo hi := by
  obtain ⟨-, rfl⟩ | ⟨hnoreset, -, rfl⟩ := exec_next_cases h
  · exact resetRegisters_filterWithin s lo hi
  cases hsend : sampleOf (decode w) with
  | none =>
    obtain ⟨hprev, hprimed⟩ := edgeOf_filterState_of_no_send s hnoreset hsend
    rwa [State.FilterWithin, hprev, hprimed]
  | some raw =>
    intro _
    rw [edgeOf_prev s hnoreset, hsend]
    exact filteredSample_within hs (hraw raw hsend)

/-- A send leaves the FilterState initialized (R106). -/
theorem cycleStep_primed_of_send {w : CycleWord} {s t : State} (hw : isSend w = true) (h : cycleStep w s = .next t) :
    t.primed = true := by
  have hsend := (isSend_eq_sampleOf_isSome w).symm.trans hw
  obtain ⟨hreset, -⟩ | ⟨hi, -, rfl⟩ := exec_next_cases h
  · simp [hreset, sampleOf] at hsend
  · rw [edgeOf_primed s hi, hsend, Bool.true_or]

/-- Along a run, bounds of the FilterState at its start and of its raw samples hold of its filtered samples. -/
theorem filteredSamples_within {lo hi : Nat} {ws : List CycleWord} {s : State} (hs : s.FilterWithin lo hi)
    (hraw : ∀ r ∈ rawSamples ws s, lo ≤ r.toNat ∧ r.toNat ≤ hi) :
    ∀ y ∈ filteredSamples ws s, lo ≤ y.toNat ∧ y.toNat ≤ hi := by
  induction ws generalizing s with
  | nil => exact fun y hy => absurd hy List.not_mem_nil
  | cons w ws ih =>
    intro y hy
    cases hc : cycleStep w s with
    | next t =>
      simp only [mem_rawSamples_cons ws hc] at hraw
      have ht := cycleStep_filterWithin hs (fun r hr => hraw r (.inl hr)) hc
      obtain ⟨hw, rfl⟩ | hlater := (mem_filteredSamples_cons ws hc).mp hy
      · exact ht (cycleStep_primed_of_send hw hc)
      · exact ih ht (fun r hr => hraw r (.inr hr)) y hlater
    | fault _ => simp [filteredSamples, collect, hc] at hy
    | refused _ => simp [filteredSamples, collect, hc] at hy

/-! ### Pushes of one sample (R107, R172) -/

/-- The gap between a held input and the FilterState. The uninitialized FilterState has none: the first sample passes
through (R101). -/
def State.gapTo (s : State) (raw : Sample) : Int := if s.primed then valueOf raw - valueOf s.prev else 0

theorem State.gapTo_bounds (s : State) (raw : Sample) : -4095 ≤ s.gapTo raw ∧ s.gapTo raw ≤ 4095 := by
  have hraw := valueOf_nonneg raw
  have hraw' := valueOf_le raw
  have hprev := valueOf_nonneg s.prev
  have hprev' := valueOf_le s.prev
  unfold State.gapTo
  split <;> omega

/-- A PUSH of the held input moves the gap by one update, from the uninitialized FilterState too (R101, R107). -/
theorem edgeOf_push_gap (raw : Sample) (s : State) :
    valueOf raw - valueOf (edgeOf (.push raw) s).prev = gapStep (s.gapTo raw) := by
  rw [edgeOf_prev s (by simp), sampleOf, Option.elim_some, filteredSample_valueOf, State.gapTo]
  cases s.primed with
  | false => rw [filt_unprimed, sub_self]; exact (gapStep_of_deadBand (by decide)).symm
  | true => exact sub_filt_eq_gapStep (valueOf_nonneg _) (valueOf_nonneg _)

theorem edgeOf_push_gapTo (raw : Sample) (s : State) : (edgeOf (.push raw) s).gapTo raw = gapStep (s.gapTo raw) := by
  rw [State.gapTo, edgeOf_primed s (by simp), sampleOf, Option.isSome_some, Bool.true_or, if_pos rfl, edgeOf_push_gap]

theorem cycleStep_push {raw : Sample} {s : State} (hs : s.initialised = true) :
    cycleStep (encode (.push raw)) s = .next (edgeOf (.push raw) s) := by
  rw [cycleStep_of_initialised _ hs, decode_encode]

/-- After n + 1 pushes of the held input the FilterState is where n + 1 updates of the gap bring it. -/
theorem runWords_pushes (raw : Sample) (n : Nat) {s : State} (hs : s.initialised = true) :
    ∃ t, runWords (List.replicate (n + 1) (encode (.push raw))) s = .next t ∧ t.initialised = true ∧ t.primed = true ∧
      valueOf raw - valueOf t.prev = gapStep^[n + 1] (s.gapTo raw) := by
  induction n generalizing s with
  | zero =>
    refine ⟨edgeOf (.push raw) s, ?_, edgeOf_initialised _ hs, edgeOf_primed s (by simp), edgeOf_push_gap raw s⟩
    rw [List.replicate_succ, runWords_cons _ (cycleStep_push hs)]; rfl
  | succ n ih =>
    obtain ⟨t, hrun, hinit, hprimed, hgap⟩ := ih (edgeOf_initialised (.push raw) hs)
    refine ⟨t, ?_, hinit, hprimed, ?_⟩
    · rw [List.replicate_succ, runWords_cons _ (cycleStep_push hs), hrun]
    · rw [hgap, edgeOf_push_gapTo, ← Function.iterate_succ_apply]

/-- A PUSH within the dead band leaves prev unchanged (R107). -/
theorem edgeOf_push_prev_of_deadBand {raw : Sample} {s : State} (hprimed : s.primed = true)
    (hlo : -50 ≤ valueOf raw - valueOf s.prev) (hhi : valueOf raw - valueOf s.prev ≤ 49) :
    (edgeOf (.push raw) s).prev = s.prev := by
  apply valueOf_injective
  rw [edgeOf_prev s (by simp), sampleOf, Option.elim_some, filteredSample_valueOf, hprimed]
  exact (filt_reference_eq_prev_iff (valueOf_nonneg _) (valueOf_nonneg _)).mpr ⟨hlo, hhi⟩

/-! ### What each stage reads (R109, R200, R216) -/

/-- The Sampler's registers after an edge are a function of the sample, prev, primed and full. -/
theorem edgeOf_sampler_congr {i j : Instr} {s u : State} (hi : i ≠ .reset) (hj : j ≠ .reset)
    (hsample : sampleOf i = sampleOf j) (hfull : s.full = u.full) (hprev : s.prev = u.prev)
    (hprimed : s.primed = u.primed) :
    (edgeOf i s).prev = (edgeOf j u).prev ∧ (edgeOf i s).primed = (edgeOf j u).primed ∧
      (edgeOf i s).sStat = (edgeOf j u).sStat := by
  simp only [edgeOf_prev _ hi, edgeOf_prev _ hj, edgeOf_primed _ hi, edgeOf_primed _ hj, edgeOf_sStat _ hi,
    edgeOf_sStat _ hj, hsample, hfull, hprev, hprimed, and_self]

/-- The Renderer's registers after an edge are a function of the receive attempt, slot, full, rx_q and led_n. -/
theorem edgeOf_renderer_congr {i j : Instr} {s u : State} (hi : i ≠ .reset) (hj : j ≠ .reset)
    (hrecv : receives i = receives j) (hfull : s.full = u.full) (hslot : s.slot = u.slot) (hrx : s.rxQ = u.rxQ)
    (hled : s.ledN = u.ledN) :
    (edgeOf i s).rxQ = (edgeOf j u).rxQ ∧ (edgeOf i s).ledN = (edgeOf j u).ledN ∧
      (edgeOf i s).rStat = (edgeOf j u).rStat := by
  simp only [edgeOf_rxQ _ hi, edgeOf_rxQ _ hj, edgeOf_ledN _ hi, edgeOf_ledN _ hj, edgeOf_rStat _ hi,
    edgeOf_rStat _ hj, hrecv, hfull, hslot, hrx, hled, and_self]

theorem cycleStep_of_rst {w : CycleWord} (hR : fieldR w = true) (s : State) :
    cycleStep w s = .next (resetRegisters s) := by
  rw [cycleStep, decode_of_rst hR]; rfl

/-! ### Tier 3 -/

/-- Settles O58: the step is a cycle, which keeps the bounds because FILT is a convex combination, and then a change of
the environment only. -/
theorem stepKeepsFilterStateWithinBounds : Obligations.StepKeepsFilterStateWithinBounds := by
  refine fun lo hi => ⟨resetRegisters_filterWithin State.reset lo hi, fun s t hs hraw h => ?_⟩
  obtain ⟨u, hu, rfl⟩ := step_next h
  exact nextCycle_filterWithin
    (cycleStep_filterWithin hs (fun r hr => hraw r ((mem_rawSamples_cons [] hu).mpr (.inl hr))) hu)

/-! ### Tier 2 -/

/-- Settles O26: with RESET both runs are at the reset values, and without it each stage's registers are a function of
what it reads. -/
theorem stagesShareOnlyTheChannel : Obligations.StagesShareOnlyTheChannel := by
  intro w v s u s' u' _ _ hs hu hrst hfull
  change fieldR w = fieldR v at hrst
  cases hR : fieldR v with
  | true =>
    rw [cycleStep_of_rst (hrst.trans hR)] at hs
    rw [cycleStep_of_rst hR] at hu
    cases hs
    cases hu
    exact ⟨fun _ _ _ _ => ⟨rfl, rfl, rfl⟩, fun _ _ _ _ => ⟨rfl, rfl, rfl⟩⟩
  | false =>
    obtain ⟨hw, -, rfl⟩ := cycleStep_of_no_reset (hrst.trans hR) hs
    obtain ⟨hv, -, rfl⟩ := cycleStep_of_no_reset hR hu
    refine ⟨fun hV hraw hprev hprimed => ?_, fun hQ hslot hrx hled => ?_⟩
    · change fieldV w = fieldV v at hV
      change fieldRaw w = fieldRaw v at hraw
      have hsample : sampleOf (decode w) = sampleOf (decode v) := by
        rw [sampleOf_decode (hrst.trans hR), sampleOf_decode hR, hV, hraw]
      exact edgeOf_sampler_congr hw hv hsample hfull hprev hprimed
    · have hrecv : receives (decode w) = receives (decode v) := by
        rw [receives_decode (hrst.trans hR), receives_decode hR]
        exact hQ
      exact edgeOf_renderer_congr hw hv hrecv hfull hslot hrx hled

/-- Settles O43: both forms are the increment form, at the defaults with its factor 2 cancelled. -/
theorem filterClosedForms : Obligations.FilterClosedForms := by
  refine ⟨fun prev raw => filt_reference_closed, fun p prev raw hp hprev hraw => ?_⟩
  rw [filt_increment hp hprev hraw, mul_assoc]

/-- Settles O44: FILT and its numerator are convex combinations, and FILT's value at the defaults fits the register. -/
theorem filterStaysBetweenInputAndState : Obligations.FilterStaysBetweenInputAndState := by
  refine ⟨fun p prev raw hp hprev hprev' hraw hraw' => ?_, fun prev raw => ?_⟩
  · have hmin : 0 ≤ min raw prev := le_min hraw hprev
    obtain ⟨hlo, hhi⟩ := filt_between hp true hmin ⟨min_le_right raw prev, le_max_right raw prev⟩
      ⟨min_le_left raw prev, le_max_left raw prev⟩
    refine ⟨hlo, hhi, filt_numerator_nonneg hp hprev hraw, ?_⟩
    obtain ⟨-, -, hle, -⟩ := hp
    have hweight : (0 : Int) ≤ p.betaDen - p.betaNum := by omega
    linarith [mul_le_mul_of_nonneg_left hraw' (Int.natCast_nonneg p.betaNum), mul_le_mul_of_nonneg_left hprev' hweight]
  · have hprev := valueOf_le prev
    have hraw := valueOf_le raw
    exact ⟨by omega, by omega, fun primed => filteredSample_valueOf primed prev raw⟩

/-- Settles O45: a remainder of half the denominator is a tie, and rnd rounds a tie up. -/
theorem filterTiesRoundUp : Obligations.FilterTiesRoundUp := by
  refine ⟨fun p prev raw n hp hprev hraw hn heven hhalf => ?_, fun prev raw hprev hraw hmod => ?_, by decide, by decide,
    by decide⟩
  · have htie := tie_of_emod_eq_half heven hhalf
    have hnonneg : 0 ≤ n := hn ▸ filt_numerator_nonneg hp hprev hraw
    rw [filt_primed, ← hn]
    exact ⟨htie, rnd_of_tie (legal_betaDen_pos hp) hnonneg htie⟩
  · rw [filt_reference_closed hprev hraw]
    omega

/-- Settles O46: the band is where the rounded increment is 0; the held-input sequences are those of their gaps, the
widest of which take 427 updates; a first sample leaves a gap of 0. -/
theorem deadBandIsExact : Obligations.DeadBandIsExact := by
  refine ⟨fun p prev raw hp => filt_eq_prev_iff hp, fun prev raw => filt_reference_eq_prev_iff, ?_, ?_, ?_, ?_,
    ⟨427, ?_⟩, ⟨427, ?_⟩, fun prev r n hr => ?_⟩
  · rw [filt_reference_iterate (by decide) (by decide), gapStep_settles_above (by decide) (by decide)]; rfl
  · rw [filt_reference_iterate (by decide) (by decide), sub_zero, gapStep_iterate_widest_above]; decide
  · rw [filt_reference_iterate (by decide) (by decide), gapStep_settles_below (by decide) (by decide)]; rfl
  · rw [filt_reference_iterate (by decide) (by decide), zero_sub, zero_sub, gapStep_iterate_widest_below]; decide
  · rw [filt_reference_iterate (by decide) (by decide), gapStep_settles_above (by decide) (by decide)]; rfl
  · rw [filt_reference_iterate (by decide) (by decide), gapStep_settles_below (by decide) (by decide)]; rfl
  · rw [filt_unprimed, filt_reference_iterate hr hr, sub_self, gapStep_iterate_of_deadBand (by decide), sub_zero]

/-- Settles O47: 427 updates bring every gap between two samples into the dead band, and a PUSH there changes nothing. -/
theorem constantInputSettlesInTheDeadBand : Obligations.ConstantInputSettlesInTheDeadBand := by
  intro raw s hs
  obtain ⟨t, hrun, hinit, hprimed, hgap⟩ := runWords_pushes raw 426 hs
  obtain ⟨hlo, hhi⟩ := s.gapTo_bounds raw
  obtain ⟨hlo', hhi'⟩ := gapStep_settles hlo hhi
  rw [← hgap] at hlo' hhi'
  exact ⟨t, _, hrun, hlo', hhi', exec_of_initialised _ hinit, edgeOf_push_prev_of_deadBand hprimed hlo' hhi'⟩

/-- Settles O48: the bounds of the FilterState along the run, from a reset state that has no sample yet. -/
theorem filteredSamplesStayInInputRange : Obligations.FilteredSamplesStayInInputRange :=
  fun _ lo hi => filteredSamples_within (resetRegisters_filterWithin State.reset lo hi)

end Sys2Proof.Machine
end

section
/-!
SUPPORT and proofs for 41_channel.md. First the layer of facts: a send and a receive attempt on a full Channel, the held
sample over an edge and over a run without receives, and PUSHPOP as two cycles. Then the statements, by tier.
-/
namespace Sys2Proof.Machine

/-! ### A send and a receive attempt on a full Channel (R122, R123) -/

/-- A send that finds the Channel full reports FULL, with a receive in its cycle or without (R123, R201). -/
theorem edgeOf_sStat_of_refused_send {i : Instr} {s : State} (hsend : (sampleOf i).isSome = true) (hf : s.full = true) :
    (edgeOf i s).sStat = sFull := by
  have hi : i ≠ .reset := by
    rintro rfl
    cases hsend
  rw [edgeOf_sStat s hi, if_pos hsend, hf, sendStatus_true]

/-- A receive attempt on a full Channel delivers and renders the held sample, with a send in its cycle or without (R122,
R123, R150). -/
theorem edgeOf_receive_of_full {i : Instr} {s : State} (hrecv : receives i = true) (hf : s.full = true) :
    (edgeOf i s).full = false ∧ (edgeOf i s).rxQ = s.slot ∧ (edgeOf i s).ledN = renderedPattern s.slot ∧
      (edgeOf i s).rStat = rDelivered := by
  have hi : i ≠ .reset := by
    rintro rfl
    cases hrecv
  simp [edgeOf_full s hi, edgeOf_rxQ s hi, edgeOf_ledN s hi, edgeOf_rStat s hi, hrecv, hf]

/-! ### The held sample (R23, R24, R127) -/

/-- Without a receive a full Channel keeps its sample and accepts no other. -/
theorem edgeOf_holds_sample {i : Instr} {s : State} (hi : i ≠ .reset) (hno : receives i = false)
    (hf : s.full = true) :
    (edgeOf i s).full = true ∧ (edgeOf i s).slot = s.slot ∧ (edgeOf i s).sStat ≠ sAccepted := by
  refine ⟨?_, edgeOf_slot_of_no_push s hi (.inl hf), ?_⟩
  · rw [edgeOf_full s hi, if_pos hf, hno, Bool.not_false]
  · rw [Ne, edgeOf_accepts_iff s hi, hf]
    exact fun haccepts => Bool.noConfusion haccepts.1

theorem acceptedSamples_cons_of_not_accepted {w : CycleWord} {s t : State} (ws : List CycleWord)
    (h : cycleStep w s = .next t) (hno : t.sStat ≠ sAccepted) :
    acceptedSamples (w :: ws) s = acceptedSamples ws t := by
  rw [acceptedSamples, collect_cons _ ws h, if_neg hno, List.nil_append, acceptedSamples]

/-- A run without a receive or a RESET is one of edges that hold the sample. -/
theorem runWords_holds_sample {ws : List CycleWord} {s : State} (hs : s.initialised = true) (hf : s.full = true)
    (hno : ∀ w ∈ ws, fieldR w = false ∧ fieldQ w = false) :
    ∃ t, runWords ws s = .next t ∧ t.initialised = true ∧ t.full = true ∧ t.slot = s.slot ∧
      acceptedSamples ws s = [] := by
  induction ws generalizing s with
  | nil => exact ⟨s, rfl, hs, hf, rfl, rfl⟩
  | cons w ws ih =>
    obtain ⟨⟨hR, hQ⟩, hrest⟩ := List.forall_mem_cons.mp hno
    obtain ⟨hfull, hslot, hrefused⟩ := edgeOf_holds_sample (decode_ne_reset hR) ((receives_decode hR).trans hQ) hf
    have hcycle := cycleStep_of_initialised w hs
    obtain ⟨t, hrun, hinit, htfull, htslot, hnone⟩ := ih (edgeOf_initialised _ hs) hfull hrest
    exact ⟨t, (runWords_cons ws hcycle).trans hrun, hinit, htfull, htslot.trans hslot,
      (acceptedSamples_cons_of_not_accepted ws hcycle hrefused).trans hnone⟩

/-! ### PUSHPOP as two cycles (R124) -/

theorem samplerStep_of_full {s : State} (t : State) (raw : Sample) (hf : s.full = true) :
    samplerStep s raw t =
      { t with prev := filteredSample s.primed s.prev raw, primed := true, sStat := sFull } := by
  rw [samplerStep, offer_of_full _ _ _ hf]

theorem samplerStep_of_empty {s : State} (t : State) (raw : Sample) (hf : s.full = false) :
    samplerStep s raw t =
      { t with prev := filteredSample s.primed s.prev raw, primed := true,
               slot := filteredSample s.primed s.prev raw, full := true, sStat := sAccepted } := by
  rw [samplerStep, offer_of_empty _ _ _ hf]

/-- On an empty Channel the receive acts first: the edge is that of POP and then PUSH, with POP's receive status. -/
theorem edgeOf_pushpop_of_empty (raw : Sample) {s : State} (hf : s.full = false) :
    edgeOf (.pushpop raw) s =
      { edgeOf (.push raw) (edgeOf .pop s) with rStat := (edgeOf .pop s).rStat } := by
  simp only [edgeOf, receive_of_empty s _ hf, samplerStep_of_empty _ _ hf, samplerStep_of_empty, noSend, noReceive, hf]

/-- On a full Channel the send acts first: the edge is that of PUSH and then POP, with PUSH's send status. -/
theorem edgeOf_pushpop_of_full (raw : Sample) {s : State} (hf : s.full = true) :
    edgeOf (.pushpop raw) s =
      { edgeOf .pop (edgeOf (.push raw) s) with sStat := (edgeOf (.push raw) s).sStat } := by
  simp only [edgeOf, samplerStep_of_full _ _ hf, receive_of_full, noSend, noReceive, hf]

/-! ### Tier 2 -/

/-- Settles O34: a refused send reports FULL, and the sample that the run holds is what the POP finds. -/
theorem heldSampleSurvivesBackpressure : Obligations.HeldSampleSurvivesBackpressure := by
  refine ⟨fun w s hs hf hR hV hQ => ?_, fun ws s hs hf hno => ?_⟩
  · change fieldR w = false at hR
    change fieldV w = true at hV
    have hsend : (sampleOf (decode w)).isSome = true := by rw [sampleOf_decode hR, if_pos hV, Option.isSome_some]
    obtain ⟨hfull, hslot, -⟩ := edgeOf_holds_sample (decode_ne_reset hR) ((receives_decode hR).trans hQ) hf
    exact ⟨_, cycleStep_of_initialised w hs, hslot, hfull.trans hf.symm, edgeOf_sStat_of_refused_send hsend hf⟩
  · obtain ⟨t, hrun, hinit, hfull, hslot, hnone⟩ := runWords_holds_sample hs hf hno
    obtain ⟨-, hrx, hled, hdel⟩ := edgeOf_receive_of_full (i := .pop) rfl hfull
    exact ⟨t, _, hrun, hslot, hfull, hnone, exec_of_initialised .pop hinit, hrx.trans hslot, by rw [hled, hslot],
      hdel⟩

/-- Settles O35: PUSHPOP as the two cycles of the order that its start-of-cycle full selects; in the other order the
first cycle changes the occupancy that the second finds. -/
theorem sameCycleIsOneInterleaving : Obligations.SameCycleIsOneInterleaving := by
  intro raw s hs
  have hpop := exec_of_initialised .pop hs
  have hpush := exec_of_initialised (.push raw) hs
  have hpopPush := exec_of_initialised (.push raw) (edgeOf_initialised .pop hs)
  have hpushPop := exec_of_initialised .pop (edgeOf_initialised (.push raw) hs)
  refine ⟨fun hf => ?_, fun hf => ?_⟩
  · obtain ⟨hfull, hslot, hacc⟩ := edgeOf_send_of_empty (i := .pushpop raw) rfl hf
    have hempty : (edgeOf (.pushpop raw) s).rStat = rEmpty := by simp [edgeOf, hf]
    obtain ⟨hpushed, -⟩ := edgeOf_send_of_empty (i := .push raw) rfl hf
    obtain ⟨hpopped, -⟩ := edgeOf_receive_of_full (i := .pop) rfl hpushed
    exact ⟨_, _, _, exec_of_initialised _ hs, hacc, hempty, hfull, hslot, hpop, hpopPush,
      edgeOf_pushpop_of_empty raw hf, _, _, hpush, hpushPop, hpopped⟩
  · obtain ⟨hempty, hrx, -, hdel⟩ := edgeOf_receive_of_full (i := .pushpop raw) rfl hf
    have hrefused : (edgeOf (.pushpop raw) s).sStat = sFull := edgeOf_sStat_of_refused_send rfl hf
    have hslot : (edgeOf (.pushpop raw) s).slot = s.slot := edgeOf_slot_of_no_push s (by simp) (.inl hf)
    obtain ⟨hpopped, -⟩ := edgeOf_receive_of_full (i := .pop) rfl hf
    obtain ⟨hpushed, -⟩ := edgeOf_send_of_empty (i := .push raw) rfl hpopped
    exact ⟨_, _, _, exec_of_initialised _ hs, hrefused, hdel, hempty, hslot, hrx, hpush, hpushPop,
      edgeOf_pushpop_of_full raw hf, _, _, hpop, hpopPush, hpushed⟩

end Sys2Proof.Machine
end

section
/-!
SUPPORT and proofs for 42_renderer.md. First the layer of facts: the three cases of CLAMP, SCALE on the window as a
monotone map between its exact ends, and the two readings of ENC's loop, in range and beyond it. Then the statements, by
tier.
-/
namespace Sys2Proof.Machine

/-! ### CLAMP (R141, R142) -/

/-- What CLAMP answers on any integer, and where. -/
theorem clamp_cases {p : Params} (hp : p.Legal) (v : Int) :
    (v < p.minAnalog ∧ clamp p v = p.minAnalog) ∨ (p.maxAnalog < v ∧ clamp p v = p.maxAnalog) ∨
      ((p.minAnalog ≤ v ∧ v ≤ p.maxAnalog) ∧ clamp p v = v) := by
  obtain ⟨-, -, -, hlt, -⟩ := hp
  rcases lt_or_ge v p.minAnalog with hlo | hlo
  · exact .inl ⟨hlo, clamp_below hlo⟩
  · rcases lt_or_ge (p.maxAnalog : Int) v with hhi | hhi
    · exact .inr (.inl ⟨hhi, clamp_above hhi (by omega)⟩)
    · exact .inr (.inr ⟨⟨hlo, hhi⟩, clamp_inside hlo hhi⟩)

theorem clamp_le_maxAnalog {p : Params} (hp : p.Legal) (v : Int) : clamp p v ≤ p.maxAnalog := by
  have hcases := clamp_cases hp v
  obtain ⟨-, -, -, hlt, -⟩ := hp
  omega

theorem clamp_monotone {p : Params} (hp : p.Legal) : Monotone (clamp p) := by
  intro v w hvw
  have hv := clamp_cases hp v
  have hw := clamp_cases hp w
  obtain ⟨-, -, -, hlt, -⟩ := hp
  omega

theorem clamp_eq_minAnalog_iff {p : Params} (hp : p.Legal) {v : Int} : clamp p v = p.minAnalog ↔ v ≤ p.minAnalog := by
  have hcases := clamp_cases hp v
  obtain ⟨-, -, -, hlt, -⟩ := hp
  omega

theorem clamp_eq_maxAnalog_iff {p : Params} (hp : p.Legal) {v : Int} : clamp p v = p.maxAnalog ↔ p.maxAnalog ≤ v := by
  have hcases := clamp_cases hp v
  obtain ⟨-, -, -, hlt, -⟩ := hp
  omega

theorem clamp_eq_self_iff {p : Params} (hp : p.Legal) {v : Int} :
    clamp p v = v ↔ p.minAnalog ≤ v ∧ v ≤ p.maxAnalog := by
  have hcases := clamp_cases hp v
  omega

/-! ### SCALE on the window (R143 to R145) -/

/-- rnd of an exact multiple is the quotient. -/
theorem rnd_mul_cancel {d m : Int} (hd : 0 < d) (hm : 0 ≤ m) : rnd (d * m) d = m :=
  le_antisymm (rnd_le hd (mul_nonneg hd.le hm) le_rfl) (le_rnd hd (mul_nonneg hd.le hm) le_rfl)

theorem rnd_le_rnd {n n' d : Int} (hd : 0 < d) (hn : 0 ≤ n) (h : n ≤ n') : rnd n d ≤ rnd n' d := by
  rw [rnd_of_nonneg d hn, rnd_of_nonneg d (hn.trans h)]
  exact Int.ediv_le_ediv (by omega) (by omega)

theorem legal_window_pos {p : Params} (hp : p.Legal) : (0 : Int) < p.maxAnalog - p.minAnalog := by
  obtain ⟨-, -, -, hlt, -⟩ := hp
  omega

theorem scale_numerator_le {p : Params} {a b : Int} (h : a ≤ b) :
    (a - p.minAnalog) * p.outputMax ≤ (b - p.minAnalog) * p.outputMax :=
  mul_le_mul_of_nonneg_right (Int.sub_le_sub_right h _) (outputMax_nonneg p)

theorem scale_numerator_nonneg {p : Params} {c : Int} (hc : p.minAnalog ≤ c) : 0 ≤ (c - p.minAnalog) * p.outputMax :=
  mul_nonneg (sub_nonneg_of_le hc) (outputMax_nonneg p)

theorem scale_le_scale {p : Params} (hp : p.Legal) {a b : Int} (ha : p.minAnalog ≤ a) (hab : a ≤ b) :
    scale p a ≤ scale p b :=
  rnd_le_rnd (legal_window_pos hp) (scale_numerator_nonneg ha) (scale_numerator_le hab)

theorem scale_minAnalog {p : Params} (hp : p.Legal) : scale p p.minAnalog = 0 := by
  have hzero : (p.minAnalog - p.minAnalog) * p.outputMax = (p.maxAnalog - p.minAnalog : Int) * 0 := by ring
  rw [scale, hzero, rnd_mul_cancel (legal_window_pos hp) le_rfl]

theorem scale_maxAnalog {p : Params} (hp : p.Legal) : scale p p.maxAnalog = p.outputMax :=
  rnd_mul_cancel (legal_window_pos hp) (outputMax_nonneg p)

/-- SCALE of a value of the window lies between SCALE of the window's ends. -/
theorem scale_bounds {p : Params} (hp : p.Legal) {c : Int} (hlo : p.minAnalog ≤ c) (hhi : c ≤ p.maxAnalog) :
    0 ≤ scale p c ∧ scale p c ≤ p.outputMax := by
  constructor
  · simpa only [scale_minAnalog hp] using scale_le_scale hp le_rfl hlo
  · simpa only [scale_maxAnalog hp] using scale_le_scale hp hlo hhi

/-- The closed form at the defaults, with the common factor 2 of rnd's fraction cancelled. -/
theorem scale_reference_closed {c : Int} (hc : 600 ≤ c) :
    scale Params.reference c = ((c - 600) * 255 + 1600) / 3200 := by
  have hform : scale Params.reference c = rnd ((c - 600) * 255) 3200 := rfl
  rw [hform, rnd_of_nonneg _ (by omega)]
  omega

/-! ### ENC's loop (R146, R147, R149) -/

/-- The loop subtracts 2^b − 1 from the magnitude, or as much of it as there is. -/
theorem encLoop_residue {w : Nat} (b r : Nat) (pat : BitVec w) : (encLoop b r pat).2 = r - (2 ^ b - 1) := by
  induction b generalizing r pat with
  | zero => simp
  | succ b ih =>
    have hpos := Nat.one_le_two_pow (n := b)
    rw [encLoop_succ, Nat.pow_succ]
    split_ifs with hle
    · rw [ih]; omega
    · rw [ih]; omega

/-- Bit i of a number that has 2^b as its leading power. -/
theorem testBit_of_leading_two_pow {b r : Nat} (hle : 2 ^ b ≤ r) (hlt : r < 2 ^ (b + 1)) (i : Nat) :
    r.testBit i = (decide (b = i) || (r - 2 ^ b).testBit i) := by
  have hrest : r - 2 ^ b < 2 ^ b := by rw [Nat.pow_succ] at hlt; omega
  have hsplit : r = 2 ^ b * 1 + (r - 2 ^ b) := by omega
  conv_lhs => rw [hsplit, Nat.testBit_two_pow_mul_add 1 hrest]
  rcases lt_trichotomy i b with hi | rfl | hi
  · simp [hi, hi.ne']
  · simp
  · have hlead : Nat.testBit 1 (i - b) = false := Nat.testBit_lt_two_pow (Nat.one_lt_two_pow (by omega))
    have htail : (r - 2 ^ b).testBit i = false :=
      Nat.testBit_lt_two_pow (hrest.trans (Nat.pow_lt_pow_right (by norm_num) hi))
    simp [hi.ne, hi.not_gt, hlead, htail]

/-- In range the loop clears the bits that the magnitude has set: the greedy decomposition is the binary one. -/
theorem encLoop_getLsbD {w : Nat} {b r : Nat} (hr : r < 2 ^ b) (pat : BitVec w) (i : Nat) :
    (encLoop b r pat).1.getLsbD i = (pat.getLsbD i && !r.testBit i) := by
  induction b generalizing r pat with
  | zero =>
    obtain rfl : r = 0 := by simpa using hr
    simp
  | succ b ih =>
    rw [encLoop_succ]
    split_ifs with hle
    · have hrest : r - 2 ^ b < 2 ^ b := by rw [Nat.pow_succ] at hr; omega
      rw [ih hrest, clearBit_getLsbD, testBit_of_leading_two_pow hle hr, Bool.not_or, Bool.and_assoc]
    · exact ih (Nat.lt_of_not_le hle) pat

/-- From 2^b − 1 on every step clears its bit, so the pattern is the one of 2^b − 1. -/
theorem encLoop_pattern_of_saturated {w : Nat} {b r : Nat} (hr : 2 ^ b - 1 ≤ r) (pat : BitVec w) :
    (encLoop b r pat).1 = (encLoop b (2 ^ b - 1) pat).1 := by
  induction b generalizing r pat with
  | zero => rfl
  | succ b ih =>
    have hpos := Nat.one_le_two_pow (n := b)
    rw [Nat.pow_succ] at hr ⊢
    have hrest : 2 ^ b * 2 - 1 - 2 ^ b = 2 ^ b - 1 := by omega
    rw [encLoop_succ, encLoop_succ, if_pos (by omega), if_pos (by omega), hrest]
    exact ih (by omega) _

theorem encResidue_eq (w s : Nat) : encResidue w s = s - (2 ^ w - 1) := encLoop_residue w s _

theorem enc_eq_not {w s : Nat} (hs : s ≤ 2 ^ w - 1) : enc w s = ~~~(BitVec.ofNat w s) := by
  refine BitVec.eq_of_getLsbD_eq fun i hi => ?_
  rw [enc, encLoop_getLsbD (Nat.lt_of_le_pred (Nat.two_pow_pos w) hs)]
  simp [hi, -BitVec.getLsbD_eq_getElem, BitVec.getLsbD_ofNat]

theorem enc_two_pow_sub_one (w : Nat) : enc w (2 ^ w - 1) = 0#w := by
  rw [enc_eq_not le_rfl]
  refine BitVec.eq_of_getLsbD_eq fun i hi => ?_
  simp [hi, -BitVec.getLsbD_eq_getElem, BitVec.getLsbD_ofNat, Nat.testBit_two_pow_sub_one]

theorem enc_of_saturated {w s : Nat} (hs : 2 ^ w - 1 ≤ s) : enc w s = 0#w :=
  (encLoop_pattern_of_saturated hs _).trans (enc_two_pow_sub_one w)

theorem lit_enc {w s b : Nat} (hs : s ≤ 2 ^ w - 1) (hb : b < w) : lit (enc w s) b = s.testBit b := by
  rw [enc_eq_not hs]
  simp [lit, hb, -BitVec.getLsbD_eq_getElem, BitVec.getLsbD_ofNat]

theorem litCount_enc {w s : Nat} (hs : s ≤ 2 ^ w - 1) : litCount (enc w s) = oneBits w s :=
  List.countP_congr fun b hb => by rw [lit_enc hs (List.mem_range.mp hb)]

/-! ### RENDER (R16, R151) -/

/-- The binary code that the lit indicators show is SCALE of the clamped sample. -/
theorem not_render_toNat {p : Params} (hp : p.Legal) (v : Int) :
    (~~~(render p v)).toNat = (scale p (clamp p v)).toNat := by
  obtain ⟨-, hmax⟩ := scale_bounds hp (minAnalog_le_clamp hp v) (clamp_le_maxAnalog hp v)
  have hpos := Nat.two_pow_pos p.bitWidth
  have hcode : (scale p (clamp p v)).toNat ≤ 2 ^ p.bitWidth - 1 := by
    rw [Int.toNat_le, Nat.cast_sub hpos]
    simpa [Params.outputMax] using hmax
  rw [render, enc_eq_not hcode, BitVec.not_not, BitVec.toNat_ofNat, Nat.mod_eq_of_lt (by omega)]

/-! ### Tier 2 -/

/-- Settles O50: SCALE of the window lies between SCALE of its ends; at the defaults the bounds are arithmetic. -/
theorem scaleFitsTheOutputRange : Obligations.ScaleFitsTheOutputRange :=
  ⟨fun _ _ hp hlo hhi => ⟨scale_numerator_nonneg hlo, scale_numerator_le hhi, scale_bounds hp hlo hhi⟩,
    fun _ hlo hhi => ⟨by omega, by omega, scale_reference_closed hlo⟩⟩

/-- Settles O51: rnd is monotone and exact on multiples; at the defaults the closed form decides ties and ends. -/
theorem scaleIsMonotoneWithExactEnds : Obligations.ScaleIsMonotoneWithExactEnds := by
  refine ⟨fun p a b hp ha hab _ => scale_le_scale hp ha hab, fun p hp => ⟨scale_minAnalog hp, scale_maxAnalog hp⟩,
    fun c hlo hhi => ?_, by decide, by decide, by decide, by decide, by decide⟩
  rw [scale_reference_closed hlo]
  exact ⟨by omega, by omega, by omega⟩

/-- Settles O52: the loop clears exactly the bits that are set in s. -/
theorem encoderIsBitwiseComplement : Obligations.EncoderIsBitwiseComplement := fun w s hs =>
  ⟨enc_eq_not hs, (encResidue_eq w s).trans (Nat.sub_eq_zero_of_le hs), fun _ hb => by rw [lit_enc hs hb],
    litCount_enc hs⟩

/-- Settles O53: the complement at the ends, and the saturated loop beyond OUTPUT_MAX. -/
theorem encoderAtAndBeyondItsEnds : Obligations.EncoderAtAndBeyondItsEnds := by
  refine ⟨fun w => ⟨?_, enc_two_pow_sub_one w⟩, fun w s hs => ?_, by decide, by decide⟩
  · rw [enc_eq_not (Nat.zero_le _), BitVec.not_zero]
  · rw [encResidue_eq]
    exact ⟨enc_of_saturated hs.le, rfl, Nat.sub_pos_of_lt hs⟩

/-- Settles O54: the code shown is SCALE after CLAMP, both of which are monotone; the lit counts are evaluated. -/
theorem renderedCodeIsMonotone : Obligations.RenderedCodeIsMonotone := by
  refine ⟨fun p v w hp hvw => ?_, by decide, rfl, by decide, by decide, rfl, by decide⟩
  rw [not_render_toNat hp, not_render_toNat hp]
  exact Int.toNat_le_toNat (scale_le_scale hp (minAnalog_le_clamp hp v) (clamp_monotone hp hvw))

/-! ### Tier 1 -/

/-- Settles O49: CLAMP's values lie in the window, where it is the identity; the ranges hold at any legal set. -/
theorem clampEnforcesBothBounds : Obligations.ClampEnforcesBothBounds := by
  refine ⟨fun p v hp => ?_, by decide, by decide, by decide, fun v => ?_⟩
  · have hlo := minAnalog_le_clamp hp v
    have hhi := clamp_le_maxAnalog hp v
    exact ⟨⟨hlo, hhi⟩, fun h => (clamp_eq_minAnalog_iff hp).mpr h.le, fun h => (clamp_eq_maxAnalog_iff hp).mpr h.le,
      clamp_inside, clamp_inside hlo hhi⟩
  · have hmin := clamp_eq_minAnalog_iff reference_legal (v := valueOf v)
    have hmax := clamp_eq_maxAnalog_iff reference_legal (v := valueOf v)
    have hself := clamp_eq_self_iff reference_legal (v := valueOf v)
    simp only [Params.reference, valueOf] at hmin hmax hself ⊢
    omega

end Sys2Proof.Machine
end

section
/-!
SUPPORT and proofs for 43_cycle_operations.md. First the layer of facts: the decoded cycle as R170's step, an edge under
another environment, runs of the machine from initialised states and over settled inputs, and the closed forms of FILT
and RENDER on the registers with the whole states that PUSH, POP and PUSHPOP leave. Then the statements, by tier.
-/
namespace Sys2Proof.Machine

/-! ### The cycle of a word is Step(S, w) (R31, R170) -/

/-- The edge of the operation that a word selects is R170's step on the word's own fields. -/
theorem edgeOf_decode_toBlock (w : CycleWord) (s : State) :
    (edgeOf (decode w) s).toBlock = Block.step .reference (Bundle.ofWord .reference w.toNat) s.toBlock :=
  calc (edgeOf (decode w) s).toBlock
      = Block.step .reference (Elaborated.ofInstr (decode w)).bundle s.toBlock :=
        (Elaborated.step_ofInstr_toBlock (decode w) s).symm
    _ = Block.step .reference (Elaborated.decode .reference w).bundle s.toBlock := by rw [Elaborated.decode_reference]
    _ = Block.step .reference (Bundle.ofWord .reference w.toNat) s.toBlock :=
        Elaborated.step_decode_bundle (e := .reference) w s.toBlock

theorem outputs_of_initialised {s : State} (h : s.initialised = true) :
    s.outputs = some { sReady := !s.full, sStat := s.sStat, rValid := s.full, rStat := s.rStat,
                       rxQ := s.rxQ, ledN := s.ledN, filtQ := s.prev, filtPrimed := s.primed } := by
  rw [State.outputs, if_pos h, State.sReady, State.rValid]

/-! ### The environment does not enter an operation (R20; log entries 1 and 2) -/

/-- A state is the numbers in its registers and the model's own fields. -/
theorem State.eq_of_toBlock {s t : State} (hregs : s.toBlock = t.toBlock) (hinit : s.initialised = t.initialised)
    (hinputs : s.inputs = t.inputs) (hcycle : s.cycle = t.cycle) : s = t := by
  cases s
  cases t
  simp_all [State.toBlock, BitVec.toNat_inj]

/-- The same registers in an environment that presents the given words from the given cycle on. -/
def State.inEnvironment (s : State) (inputs : List CycleWord) (cycle : Nat) : State :=
  { s with inputs := inputs, cycle := cycle }

section environment
variable {s t : State} (ws : List CycleWord) (c : Nat)

/-- An edge computes R170's step, which reads registers only. -/
theorem edgeOf_inEnvironment (i : Instr) (hs : s.initialised = true) :
    edgeOf i (s.inEnvironment ws c) = (edgeOf i s).inEnvironment ws c := by
  have hregs : (edgeOf i (s.inEnvironment ws c)).toBlock = (edgeOf i s).toBlock := by
    rw [← Elaborated.step_ofInstr_toBlock, ← Elaborated.step_ofInstr_toBlock]
    rfl
  have hinit : (edgeOf i (s.inEnvironment ws c)).initialised = (edgeOf i s).initialised :=
    (edgeOf_initialised (s := s.inEnvironment ws c) i hs).trans (edgeOf_initialised i hs).symm
  exact State.eq_of_toBlock hregs hinit (edgeOf_inputs i _) (edgeOf_cycle i _)

theorem exec_inEnvironment {i : Instr} (h : exec i s = .next t) :
    exec i (s.inEnvironment ws c) = .next (t.inEnvironment ws c) := by
  obtain ⟨rfl, rfl⟩ | ⟨-, hs, rfl⟩ := exec_next_cases h
  · rfl
  · rw [← edgeOf_inEnvironment ws c i hs]
    exact exec_of_initialised i hs

/-- A step consumes the first settled word, runs it and counts the cycle. -/
theorem step_inEnvironment {w : CycleWord} (h : cycleStep w s = .next t) :
    step (s.inEnvironment (w :: ws) c) = .next (t.inEnvironment ws (c + 1)) :=
  exec_inEnvironment (s := s) (i := decode w) ws (c + 1) h

end environment

/-! ### Runs of the machine (R177, R200) -/

theorem core_run_succ {s t : State} (k : Nat) (h : step s = .next t) :
    Host.Core.run core (k + 1) s = Host.Core.run core k t := by
  have hcore : core.step s = .next t := h
  simp only [Host.Core.run, hcore]

/-- The machine over settled inputs runs them to the last, from any cycle on. -/
theorem core_run_inEnvironment {ws : List CycleWord} {s t : State} (c : Nat) (h : runWords ws s = .next t) :
    Host.Core.run core ws.length (s.inEnvironment ws c) = .next (t.inEnvironment [] (c + ws.length)) := by
  induction ws generalizing s c with
  | nil =>
    cases h
    rfl
  | cons w ws ih =>
    obtain ⟨u, hu, hrest⟩ := runWords_cons_next h
    rw [List.length_cons, core_run_succ _ (step_inEnvironment ws c hu), ih (c + 1) hrest, Nat.add_right_comm,
      Nat.add_assoc]

theorem runWords_of_initialised (ws : List CycleWord) {s : State} (hs : s.initialised = true) :
    ∃ t, runWords ws s = .next t := by
  induction ws generalizing s with
  | nil => exact ⟨s, rfl⟩
  | cons w ws ih =>
    rw [runWords_cons ws (cycleStep_of_initialised w hs)]
    exact ih (edgeOf_initialised _ hs)

theorem core_run_of_initialised (k : Nat) {s : State} (hs : s.initialised = true) :
    ∃ t : State, Host.Core.run core k s = .next t := by
  induction k generalizing s with
  | zero => exact ⟨s, rfl⟩
  | succ k ih =>
    have hnext : s.nextCycle.initialised = true := hs
    rw [core_run_succ k (exec_of_initialised (decode s.currentWord) hnext)]
    exact ih (edgeOf_initialised _ hnext)

/-! ### FILT and RENDER on the registers, in closed form (R103, R144, R147) -/

theorem filteredSample_toNat_closed (primed : Bool) (prev raw : Sample) :
    (filteredSample primed prev raw).toNat =
      if primed then (raw.toNat + 99 * prev.toNat + 50) / 100 else raw.toNat := by
  have hvalue := filteredSample_valueOf primed prev raw
  cases primed with
  | false =>
    rw [filt_unprimed] at hvalue
    exact Int.ofNat_inj.mp hvalue
  | true =>
    rw [filt_reference_closed (valueOf_nonneg prev) (valueOf_nonneg raw)] at hvalue
    simp only [valueOf] at hvalue
    rw [if_pos rfl]
    omega

/-- CLAMP at the defaults on a register's number, on natural numbers (R141). -/
theorem clamp_reference_valueOf (v : Sample) :
    clamp Params.reference (valueOf v) = (max 600 (min 3800 v.toNat) : Nat) := by
  have hcases := clamp_cases reference_legal (valueOf v)
  simp only [Params.reference, valueOf] at hcases ⊢
  omega

/-- The pattern is the complement of the code SCALE gives, and OUTPUT_MAX is 255. -/
theorem renderedPattern_toNat_closed (v : Sample) :
    (renderedPattern v).toNat = 255 - ((max 600 (min 3800 v.toNat) - 600) * 255 + 1600) / 3200 := by
  have hcode : (~~~(renderedPattern v)).toNat = (scale Params.reference (clamp Params.reference (valueOf v))).toNat :=
    not_render_toNat reference_legal (valueOf v)
  have hpattern := (renderedPattern v).isLt
  rw [BitVec.toNat_not, clamp_reference_valueOf, scale_reference_closed (by omega)] at hcode
  omega

/-! ### The whole state after a send and after a receive attempt (R172 to R174) -/

section send
variable {s : State} (raw : Sample)

theorem edgeOf_push : edgeOf (.push raw) s =
    { s with prev := filteredSample s.primed s.prev raw, primed := true,
             slot := (if s.full then s.slot else filteredSample s.primed s.prev raw), full := true,
             sStat := sendStatus s.full, rStat := rIdle } := by
  cases hf : s.full with
  | true => simp [edgeOf, samplerStep_of_full s raw hf, noReceive, hf]
  | false => simp [edgeOf, samplerStep_of_empty s raw hf, noReceive]

theorem edgeOf_pushpop_state_of_empty (hf : s.full = false) : edgeOf (.pushpop raw) s =
    { s with prev := filteredSample s.primed s.prev raw, primed := true,
             slot := filteredSample s.primed s.prev raw, full := true, sStat := sAccepted, rStat := rEmpty } := by
  rw [edgeOf, samplerStep_of_empty s raw hf, receive_of_empty s _ hf]

theorem edgeOf_pushpop_state_of_full (hf : s.full = true) : edgeOf (.pushpop raw) s =
    { s with prev := filteredSample s.primed s.prev raw, primed := true, rxQ := s.slot,
             ledN := renderedPattern s.slot, full := false, sStat := sFull, rStat := rDelivered } := by
  rw [edgeOf, samplerStep_of_full s raw hf, receive_of_full s _ hf]

end send

/-! ### Tier 2 -/

/-- Settles O13: the state that the words settle is the given one in their environment. -/
theorem coreRunFollowsSettledInputs : Obligations.CoreRunFollowsSettledInputs :=
  fun _ s _ h => core_run_inEnvironment s.cycle h

/-- Settles O14: no operation stops on registers that hold values, and each leaves them so. -/
theorem runsFromResetNeverStop : Obligations.RunsFromResetNeverStop :=
  ⟨fun ws => runWords_of_initialised ws reset_sound.initialised,
    fun k => core_run_of_initialised k reset_sound.initialised⟩

/-- Settles O15: the next state is the edge of the decoded operation, which is R170's step. -/
theorem cycleRefinesParametricStep : Obligations.CycleRefinesParametricStep := fun w s hs =>
  ⟨edgeOf (decode w) s, cycleStep_of_initialised w hs, edgeOf_decode_toBlock w s,
    outputs_of_initialised (edgeOf_initialised _ hs)⟩

/-- Settles O17: y is what FILT stores, and the occupancy decides slot and the send status. -/
theorem pushFiltersThenOffers : Obligations.PushFiltersThenOffers := by
  refine ⟨fun w hw => ?_, fun raw s hs => ⟨_, filteredSample_toNat_closed s.primed s.prev raw, ?_⟩⟩
  · obtain ⟨-, hpush, -⟩ := controlFieldSelectsOperation w
    exact hpush.mp hw
  · rw [exec_of_initialised _ hs, edgeOf_push]
    rfl

/-- Settles O18: a POP is the receive attempt on the start-of-cycle state, with the send status idle. -/
theorem popDeliversOrReportsEmpty : Obligations.PopDeliversOrReportsEmpty := by
  refine ⟨fun w hw => ?_, fun s hs => ⟨fun hf => ⟨_, renderedPattern_toNat_closed s.slot, ?_⟩, fun hf => ?_⟩⟩
  · obtain ⟨-, -, hpop, -⟩ := controlFieldSelectsOperation w
    exact hpop.mp hw
  · rw [exec_of_initialised _ hs, edgeOf, receive_of_full s _ hf]
    rfl
  · rw [exec_of_initialised _ hs, edgeOf, receive_of_empty s _ hf]
    rfl

/-- Settles O19: the state that each start-of-cycle occupancy gives, with FILT and RENDER in closed form. -/
theorem pushpopActsOnStartOfCycleFull : Obligations.PushpopActsOnStartOfCycleFull := by
  refine ⟨fun w hw => ?_, fun raw s hs =>
    ⟨_, filteredSample_toNat_closed s.primed s.prev raw, fun hf => ?_, fun hf =>
      ⟨_, renderedPattern_toNat_closed s.slot, ?_⟩⟩⟩
  · obtain ⟨-, -, -, hpushpop, -⟩ := controlFieldSelectsOperation w
    exact hpushpop.mp hw
  · rw [exec_of_initialised _ hs, edgeOf_pushpop_state_of_empty raw hf]
    rfl
  · rw [exec_of_initialised _ hs, edgeOf_pushpop_state_of_full raw hf]
    rfl

/-! ### Tier 1 -/

/-- Settles O16: NOP's edge writes the two statuses, and their idle codes are 0. -/
theorem nopIdlesBothStatusesOnly : Obligations.NopIdlesBothStatusesOnly := by
  refine ⟨fun w hw => ?_, fun s hs => exec_of_initialised .nop hs⟩
  obtain ⟨hnop, -⟩ := controlFieldSelectsOperation w
  exact hnop.mp hw

end Sys2Proof.Machine
end

section
/-!
SUPPORT and proofs for 60_exceptions.md. First the layer of facts: the two status codes after the edge of a word, RESET
among them, and that no edge writes a reserved code. Then the statement.
-/
namespace Sys2Proof.Machine

/-! ### The status codes after an edge (R203, R205) -/

/-- The rows of s_stat in R205: RESET comes before the send, and the send before the occupancy. -/
theorem edgeOf_decode_sStat (w : CycleWord) (s : State) :
    (edgeOf (decode w) s).sStat =
      if fieldR w then sIdle else if fieldV w = false then sIdle else sendStatus s.full := by
  cases hR : fieldR w with
  | true => rw [decode_of_rst hR]; rfl
  | false =>
    rw [edgeOf_sStat s (decode_ne_reset hR), sampleOf_decode hR]
    cases fieldV w <;> rfl

/-- The rows of r_stat in R205, in the same order. -/
theorem edgeOf_decode_rStat (w : CycleWord) (s : State) :
    (edgeOf (decode w) s).rStat =
      if fieldR w then rIdle else if fieldQ w = false then rIdle else receiveStatus s.full := by
  cases hR : fieldR w with
  | true => rw [decode_of_rst hR]; rfl
  | false =>
    rw [edgeOf_rStat s (decode_ne_reset hR), receives_decode hR]
    cases fieldQ w <;> rfl

/-- S_FAIL is reserved: no edge writes it (R203). -/
theorem edgeOf_sStat_ne_sFail (i : Instr) (s : State) : (edgeOf i s).sStat ≠ sFail := by
  by_cases hi : i = .reset
  · subst hi
    exact sIdle_ne_sFail
  · rw [edgeOf_sStat s hi]
    split
    · exact sendStatus_ne_sFail s.full
    · exact sIdle_ne_sFail

/-- R_FAIL is reserved: no edge writes it (R203). -/
theorem edgeOf_rStat_ne_rFail (i : Instr) (s : State) : (edgeOf i s).rStat ≠ rFail := by
  by_cases hi : i = .reset
  · subst hi
    exact rIdle_ne_rFail
  · rw [edgeOf_rStat s hi]
    split
    · exact receiveStatus_ne_rFail s.full
    · exact rIdle_ne_rFail

/-! ### Tier 2 -/

/-- Settles O24: an initialised block answers every word with the edge of its operation, whose codes are the rows of
R205; the statement's numerals are the codes' values. -/
theorem statusCodesFollowTheTable : Obligations.StatusCodesFollowTheTable := fun w s hs =>
  ⟨edgeOf (decode w) s, cycleStep_of_initialised w hs, edgeOf_decode_sStat w s, edgeOf_decode_rStat w s,
    edgeOf_sStat_ne_sFail _ s, edgeOf_rStat_ne_rFail _ s⟩

end Sys2Proof.Machine
end

section
/-!
SUPPORT and proofs for 70_reset_and_hazards.md. First the layer of facts: what RESET answers and reads, the first sample
after it, the outputs before it, and a send on an empty Channel. Then the statements.
-/
namespace Sys2Proof.Machine

/-! ### RESET (R230, R232) -/

theorem exec_reset (s : State) : exec .reset s = .next (resetRegisters s) := rfl

/-- A repeated RESET gives the same state as one (R230). -/
theorem resetRegisters_resetRegisters (s : State) : resetRegisters (resetRegisters s) = resetRegisters s := rfl

/-- RESET reads no register: the environment's fields alone enter its result (R232). -/
theorem resetRegisters_congr {s u : State} (hinputs : u.inputs = s.inputs) (hcycle : u.cycle = s.cycle) :
    resetRegisters u = resetRegisters s := by
  rw [resetRegisters, resetRegisters, hinputs, hcycle]

/-- The uninitialized filter passes its first sample through (R101). -/
theorem filteredSample_unprimed_eq_raw (prev raw : Sample) : filteredSample false prev raw = raw :=
  BitVec.eq_of_toNat_eq (filteredSample_toNat_closed false prev raw)

/-- A send into an uninitialized filter leaves its own sample as the FilterState (R101, R106). -/
theorem edgeOf_prev_of_first_send {i : Instr} {s : State} {raw : Sample} (hi : i ≠ .reset)
    (hsend : sampleOf i = some raw) (hunprimed : s.primed = false) : (edgeOf i s).prev = raw := by
  rw [edgeOf_prev s hi, hsend, Option.elim_some, hunprimed, filteredSample_unprimed_eq_raw]

theorem outputs_resetRegisters (s : State) : (resetRegisters s).outputs =
    some { sReady := true, sStat := 0#2, rValid := false, rStat := 0#2, rxQ := 0#12, ledN := 0xFF#8, filtQ := 0#12,
           filtPrimed := false } :=
  outputs_of_initialised (resetRegisters_initialised s)

/-- Before the first RESET no output has a value (R232). -/
theorem outputs_of_powerUp {s : State} (h : s.initialised = false) : s.outputs = none :=
  if_neg (ne_true_of_eq_false h)

/-! ### The Channel after a pop (R31, R236) -/

theorem sReady_of_empty {s : State} (hf : s.full = false) : s.sReady = true := by
  rw [State.sReady, hf, Bool.not_false]

/-- An accepted sample is the FilterState that its send leaves (R106, R121). -/
theorem edgeOf_accepted_slot_eq_prev {i : Instr} {s : State} {raw : Sample} (hi : i ≠ .reset)
    (hsend : sampleOf i = some raw) (hf : s.full = false) : (edgeOf i s).slot = (edgeOf i s).prev := by
  rw [edgeOf_slot s hi, edgeOf_prev s hi, hf, hsend, if_neg Bool.false_ne_true, Option.elim_some, Option.elim_some]

/-! ### Tier 1 -/

/-- Settles O20: RESET answers the reset registers, on which the filter is uninitialized and the Channel empty. -/
theorem resetGivesTheResetState : Obligations.ResetGivesTheResetState := by
  refine ⟨fun w hw => decode_of_rst (and_rstMask_eq_iff.mp hw), fun s => ?_⟩
  have hpush (raw : Sample) :
      ∃ u, exec (.push raw) (resetRegisters s) = .next u ∧ u.prev = raw :=
    ⟨_, exec_of_initialised _ (resetRegisters_initialised s), edgeOf_prev_of_first_send (by simp) rfl rfl⟩
  exact ⟨resetRegisters s, exec_reset s, rfl, rfl, rfl, rfl, rfl, rfl, rfl, rfl, rfl, rfl, rfl,
    outputs_resetRegisters s, by rw [exec_reset, resetRegisters_resetRegisters], pending_of_empty rfl, hpush⟩

/-- Settles O21: the word decodes to RESET, whose result is the reset registers in the given environment. -/
theorem resetDominatesEveryInput : Obligations.ResetDominatesEveryInput := fun _ s hR => cycleStep_of_rst hR s

/-- Settles O22: without values the outputs are none and every operation but RESET faults; RESET reads no register. -/
theorem powerUpStateHoldsNoValue : Obligations.PowerUpStateHoldsNoValue := fun s hs =>
  ⟨outputs_of_powerUp hs, fun _ => exec_of_powerUp hs, fun u _ hinputs hcycle => by
    rw [exec_reset, exec_reset, resetRegisters_congr hinputs hcycle]⟩

/-- Settles O38: the send of the PUSHPOP sees the full Channel of the start of its cycle, the PUSH the empty one. -/
theorem poppedChannelAcceptsNextCycle : Obligations.PoppedChannelAcceptsNextCycle := by
  intro raw raw' s hs hf
  obtain ⟨hempty, -, -, hdelivered⟩ := edgeOf_receive_of_full (i := .pushpop raw) rfl hf
  have hrefused : (edgeOf (.pushpop raw) s).sStat = sFull := edgeOf_sStat_of_refused_send rfl hf
  obtain ⟨-, -, haccepted⟩ := edgeOf_send_of_empty (i := .push raw') rfl hempty
  exact ⟨_, _, exec_of_initialised _ hs, hrefused, hdelivered, sReady_of_empty hempty,
    exec_of_initialised _ (edgeOf_initialised _ hs), haccepted,
    edgeOf_accepted_slot_eq_prev (by simp) rfl hempty⟩

end Sys2Proof.Machine
end
